-- ==== Sys2Proof/Word.lean ====
section
/-! DEFINITION. The word types of the block (rules R9, R10): a 32-bit register, an 8-bit pin or channel id, the
16-bit period and level fields and the 12-bit divider. -/

namespace Sys2Proof

/-- One 32-bit register of the host window (R30), a speed (R74), a frequency (R75) or a clock value (R56). -/
abbrev Word := BitVec 32

/-- One byte lane of a register on a byte-addressed bus (R53). -/
abbrev Byte := BitVec 8

/-- A pin id, which is also the channel id on the sink port (R6). -/
abbrev PinId := BitVec 8

/-- A period, a wrap or a level (R9). -/
abbrev Level := BitVec 16

/-- A clock divider in sixteenths, `div16` (R12). -/
abbrev Div16 := BitVec 12

end Sys2Proof
end

