-- ==== Sys2Proof/Config.lean ====
section
/-! DEFINITION. What one instance of the block is built with (rule R6), and the one value the spec leaves free: the
source clock at each sample (rules R7 and R56). -/

namespace Sys2Proof

/-- The decay mode (R17): FastDecay coasts, SlowDecay brakes. Its one-bit encoding (R76) is `decayBit` of
Machine/Operands.lean. -/
inductive Decay where
  | fast
  | slow
deriving DecidableEq, Repr

/-- The configuration parameters of R6, before they are checked. `maxPwmPeriod` is a plain number because R227 speaks
of values outside 1..65535. -/
structure Params where
  /-- `PIN_POS` -/
  pinPos : PinId
  /-- `PIN_NEG` -/
  pinNeg : PinId
  /-- `DEFAULT_FREQ`, UQ28.4 -/
  defaultFreq : Word
  /-- `DEFAULT_DECAY` -/
  defaultDecay : Decay
  /-- `SHARED_SLICE` -/
  sharedSlice : Bool
  /-- `MAX_PWM_PERIOD` -/
  maxPwmPeriod : Nat
deriving DecidableEq, Repr

/-- The clock draw (R7, R56; U5 of 93_implementation_defined.md): the value of the ClockSource input at the n-th sample
that `State.clockIn` does not supply. It has no body, so no proof can see a value of it (log entry 3). -/
opaque Config.clockDraw : Nat → Word

end Sys2Proof
end

