-- ==== Sys2Proof/Syntax.lean ====
section
/-! DEFINITION. The command set: one constructor for each row of spec/opcode_table.json (rule R72). No command carries
an operand in its word (R77): the operand of the three SET commands is the register ARG, which is state. -/

namespace Sys2Proof

/-- The ten commands, in the order of their opcodes 0x1 to 0xA (R72). -/
inductive Instr where
  | init
  | setSpeed
  | setFrequency
  | setDecayMode
  | stop
  | disable
  | getSpeed
  | getFrequency
  | getDecayMode
  | teardown
deriving DecidableEq, Repr

end Sys2Proof
end

