-- ==== Sys2Proof/WellFormed.lean ====
section
/-! DEFINITION. Well-formedness. A command has no operand field, so each command is well-formed as it stands (R77).
What can be ill-formed is a configuration: R8 and R227 refuse to build an instance whose two pins are one pin, or whose
period bound is outside 1..65535. A `Config` is a set of parameters together with the outcome of that check, so an
ill-formed instance cannot be built and has no semantics. -/

namespace Sys2Proof

/-- R77: no command word carries an operand, so there is no field to check. -/
def Instr.wf : Instr → Bool
  | .init => true
  | .setSpeed => true
  | .setFrequency => true
  | .setDecayMode => true
  | .stop => true
  | .disable => true
  | .getSpeed => true
  | .getFrequency => true
  | .getDecayMode => true
  | .teardown => true

/-- R8: `PIN_POS` and `PIN_NEG` differ. -/
def Params.pinsDiffer (p : Params) : Bool := decide (p.pinPos ≠ p.pinNeg)

/-- R6 and R227: `MAX_PWM_PERIOD` is in 1..65535. -/
def Params.periodInRange (p : Params) : Bool := decide (1 ≤ p.maxPwmPeriod ∧ p.maxPwmPeriod ≤ 65535)

/-- The two checks a configuration must pass before an instance is built. -/
def Params.wf (p : Params) : Bool := p.pinsDiffer && p.periodInRange

/-- A configuration that passed its checks: what an instance is built with (R6), fixed for its lifetime. -/
structure Config extends Params where
  valid : toParams.wf = true
deriving DecidableEq, Repr

/-- Building an instance's configuration: refused (`none`) when ill-formed (R8, R227). -/
def Config.build (p : Params) : Option Config :=
  if h : p.wf = true then some ⟨p, h⟩ else none

/-- The instance of 95_test_vectors.md ("Unless a vector says otherwise"): the one `State.reset` is built with.
DESIGN CHOICE, log entry 1: the spec leaves the parameters to the instance. -/
def Config.vectorInstance : Config where
  pinPos := 4#8
  pinNeg := 5#8
  defaultFreq := 400000#32
  defaultDecay := .slow
  sharedSlice := false
  maxPwmPeriod := 65535
  valid := by decide

end Sys2Proof
end

