-- ==== Sys2Proof/Decode.lean ====
section
/-! DEFINITION. The decoder (rules R70 to R73), total on every 32-bit word and on every list of bytes, which rejects by
name; the encoder after it, written from the same opcode map; and the table's own numbering of a command's bits. -/

namespace Sys2Proof

/-- Why a word is no command (R73), or why bytes hold none. -/
inductive IllegalReason where
  /-- `RSVD`, bits 31:4, is not zero (R73) -/
  | reservedBits
  /-- `OPC` is 0x0 or 0xB to 0xF (R73) -/
  | illegalOpcode
  /-- fewer than the four bytes of one command (R70: every command is one 32-bit word) -/
  | truncated
deriving DecidableEq, Repr

/-- What the decoder answers: a command, or ILLEGAL with the reason. -/
inductive Decoded where
  | command (i : Instr)
  | illegal (r : IllegalReason)
deriving DecidableEq, Repr

/-- The field `OPC`, bits 3:0 of the command word (R70). -/
def opcField (w : Word) : BitVec 4 := w.extractLsb' 0 4

/-- The field `RSVD`, bits 31:4 of the command word (R70). -/
def rsvdField (w : Word) : BitVec 28 := w.extractLsb' 4 28

/-- The opcode map (R72), read from opcode to command. -/
def opcodeCommand (opc : BitVec 4) : Decoded :=
  match opc.toNat with
  | 0x1 => .command .init
  | 0x2 => .command .setSpeed
  | 0x3 => .command .setFrequency
  | 0x4 => .command .setDecayMode
  | 0x5 => .command .stop
  | 0x6 => .command .disable
  | 0x7 => .command .getSpeed
  | 0x8 => .command .getFrequency
  | 0x9 => .command .getDecayMode
  | 0xA => .command .teardown
  | _ => .illegal .illegalOpcode

/-- `Decode(w)` of R71. -/
def decode (w : Word) : Decoded :=
  if rsvdField w ≠ 0 then .illegal .reservedBits else opcodeCommand (opcField w)

/-- A register word from its four byte lanes, lane 0 first (R53: lane k carries bits 8k+7 : 8k). -/
def wordOfLanes (b0 b1 b2 b3 : Byte) : Word := b3 ++ b2 ++ b1 ++ b0

/-- Byte lane `k` of a register word (R53). -/
def laneOfWord (w : Word) (k : Nat) : Byte := w.extractLsb' (8 * k) 8

/-- The four byte lanes of a register word, lane 0 first (R53). -/
def lanesOfWord (w : Word) : List Byte := [laneOfWord w 0, laneOfWord w 1, laneOfWord w 2, laneOfWord w 3]

/-- The decoder over bytes: one command from the first four, and the bytes after it. -/
def decodeBytes : List Byte → Decoded × List Byte
  | b0 :: b1 :: b2 :: b3 :: rest => (decode (wordOfLanes b0 b1 b2 b3), rest)
  | [_, _, _] => (.illegal .truncated, [])
  | [_, _] => (.illegal .truncated, [])
  | [_] => (.illegal .truncated, [])
  | [] => (.illegal .truncated, [])

/-- The opcode map (R72), read from command to opcode. -/
def opcode : Instr → BitVec 4
  | .init => 0x1#4
  | .setSpeed => 0x2#4
  | .setFrequency => 0x3#4
  | .setDecayMode => 0x4#4
  | .stop => 0x5#4
  | .disable => 0x6#4
  | .getSpeed => 0x7#4
  | .getFrequency => 0x8#4
  | .getDecayMode => 0x9#4
  | .teardown => 0xA#4

/-- The command word of a command: its opcode in bits 3:0 and zeros in `RSVD` (R70). -/
def encode (i : Instr) : Word := 0#28 ++ opcode i

/-- The four bytes of a command word (R53). -/
def encodeBytes (i : Instr) : List Byte := lanesOfWord (encode i)

/-- The command my decoder reads from a word numbered as spec/opcode_table.json numbers it: bit 0 is bit 0 of the
32-bit command word. A word with a bit at `nbits` or above, or of more than 32 bits, is no command. -/
def decodeTableWord (nbits w : Nat) : Option Instr :=
  if w < 2 ^ nbits ∧ w < 2 ^ 32 then
    match (decodeBytes (lanesOfWord (BitVec.ofNat 32 w))).1 with
    | .command i => some i
    | .illegal _ => none
  else none

end Sys2Proof
end

