-- ==== Sys2Proof/Machine/State.lean ====
section
/-! DEFINITION. The state of the block as plain data: the fields of rule R20, the two writable host registers of rules
R32 and R34, the instance's configuration (R6), and the model's own fields for what crosses the block's ports: the
trace of transactions (R55), the host's pending accesses and the replies to them, and the clock samples (R56). -/

namespace Sys2Proof.Machine

open Sys2Proof

/-- `st.life` (R20). Value 3 never occurs (U10), so it is no constructor. -/
inductive Life where
  | uninitialized
  | ready
  | tornDown
deriving DecidableEq, Repr

/-- The result codes (R220). Codes 6 to 15 are never written (U9), so they are no constructors. -/
inductive ResultCode where
  | ok
  | infeasibleFrequency
  | notInitialized
  | illegalCommand
  | badOperand
  | tornDown
deriving DecidableEq, Repr

/-- A transaction on the sink port or the pin-owner port (R55). -/
inductive Txn where
  | sinkCfg (ch : PinId) (period : Level) (divInt : BitVec 8) (divFrac : BitVec 4)
  | sinkDiv (ch : PinId) (divInt : BitVec 8) (divFrac : BitVec 4)
  | sinkWrap (ch : PinId) (wrap : Level)
  | sinkLevel (ch : PinId) (level : Level)
  | sinkEnable (ch : PinId)
  | pinClaim (pin : PinId)
  | pinRelease (pin : PinId)
deriving DecidableEq, Repr

/-- The width of a host access to the window (R52 names these four). -/
inductive AccessWidth where
  | byte
  | half
  | word
  | double
deriving DecidableEq, Repr

/-- One host access to the 64-byte window, at an offset from the window's base (R50, R51). -/
inductive Access where
  | read (width : AccessWidth) (offset : BitVec 6)
  | write (width : AccessWidth) (offset : BitVec 6) (value : Word)
deriving DecidableEq, Repr

/-- What reaches the block from outside, one event a step (R15, R28). -/
inductive HostEvent where
  /-- a window access between commands -/
  | access (a : Access)
  /-- the reset input, asserted between commands (R250) -/
  | reset
  /-- a write of `w` to `CMD`, with reset asserted while `BUSY = 1`, after `k` of the command's transactions (R250,
  U20): the host and the reset input choose `k` -/
  | resetDuring (w : Word) (k : Nat)
  /-- a write of `w` to `CMD`, and an admitted write of `v` to `CMD` (`toArg = false`) or to `ARG` (`toArg = true`)
  while `BUSY = 1`: the host-protocol fault of R226 (b) -/
  | overrun (w : Word) (toArg : Bool) (v : Word)
deriving DecidableEq, Repr

/-- What the bus gives back to the host for a read or for an access that is not admitted (R52). -/
inductive Reply where
  | data (v : Word)
  | busError
deriving DecidableEq, Repr

/-- Why the machine stops. -/
inductive Fault where
  /-- A write to `CMD` or `ARG` while `STATUS.BUSY = 1`. Raised by `hostWrite` (and so by the events `overrun`, and
  `resetDuring` in a busy state). R226 and U2: the block's response is unspecified and a model faults. Safe: nothing is
  claimed of what the block does then. -/
  | writeWhileBusy
deriving DecidableEq, Repr

/-- Why an instruction has no meaning. -/
inductive Refusal where
  /-- An instruction without a meaning, by its mnemonic; raised by an arm of `exec` only. Safe. No arm raises it: each
  command of the table has its meaning. -/
  | notModelled (mnemonic : String)
deriving DecidableEq, Repr

/-- The whole state. -/
structure State where
  /-- the configuration the instance was built with (R6); no step changes it -/
  cfg : Config
  /-- `st.life` (R21) -/
  life : Life
  /-- `st.speed`, Q16.16 (R22) -/
  speed : Word
  /-- `st.freq`, UQ28.4 (R23) -/
  freq : Word
  /-- `st.decay` (R24) -/
  decay : Decay
  /-- `st.period` (R25) -/
  period : Level
  /-- `st.div16` (R25) -/
  div16 : Div16
  /-- `st.enabled` (R26) -/
  enabled : Bool
  /-- `st.level_pos` (R27) -/
  levelPos : Level
  /-- `st.level_neg` (R27) -/
  levelNeg : Level
  /-- `st.result` (R20, R220) -/
  result : ResultCode
  /-- `st.busy` (R20, R262) -/
  busy : Bool
  /-- the register `ARG` (R32) -/
  arg : Word
  /-- the register `RESULT` (R34) -/
  resultReg : Word
  /-- the model's own: the transactions emitted so far, oldest first (R55); the block never reads it (R43) -/
  trace : List Txn
  /-- the model's own: what the host and the reset input will do, next first (R28) -/
  host : List HostEvent
  /-- the model's own: what the bus gave back to the host, oldest first (R52, R54) -/
  replies : List Reply
  /-- the model's own: the values the clock input will have at the next samples, next first (R56) -/
  clockIn : List Word
  /-- the model's own: how many free clock draws `Config.clockDraw` has supplied (log entry 3) -/
  draws : Nat
  /-- the model's own: a window access that R52 does not admit has been made (R226 (a)); never cleared -/
  hostFault : Bool
deriving DecidableEq, Repr

/-- The state after reset of an instance with configuration `c` (R44), with nothing emitted and nothing pending. -/
def State.resetOf (c : Config) : State where
  cfg := c
  life := .uninitialized
  speed := 0
  freq := c.defaultFreq
  decay := c.defaultDecay
  period := 0
  div16 := 0
  enabled := false
  levelPos := 0
  levelNeg := 0
  result := .ok
  busy := false
  arg := 0
  resultReg := 0
  trace := []
  host := []
  replies := []
  clockIn := []
  draws := 0
  hostFault := false

/-- The machine right after reset, for the instance of 95_test_vectors.md (log entry 1). -/
def State.reset : State := State.resetOf Config.vectorInstance

end Sys2Proof.Machine
end

