-- ==== Sys2Proof/Machine/DutyMapper.lean ====
section
/-! DEFINITION. The duty mapper (rules R120 to R126): the pure function from a clamped speed, a period and a decay mode
to the two channel levels, computed on integers and narrowed to 16 bits at the end. -/

namespace Sys2Proof.Machine

open Sys2Proof

/-- The signed duty of R121: speed times period, rounded to nearest, ties away from zero. -/
def signedDuty (speed : Int) (period : Nat) : Int :=
  speed.sign * (((speed.natAbs * period + 32768) / 65536 : Nat) : Int)

/-- The two levels of R120 as integers, (pos, neg), from the signed duty: SlowDecay by R122, FastDecay by R123. -/
def steer (sd : Int) (period : Nat) (m : Decay) : Int × Int :=
  match m with
  | .slow => if 0 ≤ sd then (period, period - sd) else (period + sd, period)
  | .fast => if 0 ≤ sd then (sd, 0) else (0, -sd)

/-- `DutyMap(S, P, M)` of R120, its levels in 16 bits (R126; log entry 12 for a speed outside the
clamp). -/
def dutyMap (speed : Int) (period : Level) (m : Decay) : Level × Level :=
  let r := steer (signedDuty speed period.toNat) period.toNat m
  (BitVec.ofInt 16 r.1, BitVec.ofInt 16 r.2)

end Sys2Proof.Machine
end

