-- ==== Sys2Proof/Machine/Factorizer.lean ====
section
/-! DEFINITION. The frequency factorizer (rules R100 to R108): the pure function from a target frequency and a source
clock to a period and a divider, on unbounded numbers as R100 writes it; and the same computation in the widths that
R101 gives a realisation. -/

namespace Sys2Proof.Machine

open Sys2Proof

/-- The factor of one pass of R104: the first of 5, 3, 2 whose condition holds for the residual `d` and the period `p`.
5 and 3 must divide `d`; the halving need not (its quotient is rounded down). -/
def nextFactor (maxP d p : Nat) : Option Nat :=
  if d % 5 = 0 ∧ 80 ≤ d ∧ p * 5 ≤ maxP then some 5
  else if d % 3 = 0 ∧ 48 ≤ d ∧ p * 3 ≤ maxP then some 3
  else if 32 ≤ d ∧ p * 2 ≤ maxP then some 2
  else none

/-- The loop of R100: passes until no factor applies. The first argument bounds the number of passes. -/
def extract (maxP : Nat) : Nat → Nat → Nat → Nat × Nat
  | 0, d, p => (d, p)
  | n + 1, d, p =>
    match nextFactor maxP d p with
    | none => (d, p)
    | some k => extract maxP n (d / k) (p * k)

/-- The factors the loop extracts, in order (the column "steps" of 95_test_vectors.md §2.2). -/
def factorSteps (maxP : Nat) : Nat → Nat → Nat → List Nat
  | 0, _, _ => []
  | n + 1, d, p =>
    match nextFactor maxP d p with
    | none => []
    | some k => k :: factorSteps maxP n (d / k) (p * k)

/-- The pass bound: R105, at most 15 passes for any period bound up to 65535. -/
def maxPasses : Nat := 15

/-- The starting divisor of R103: 256·C/F rounded half up. -/
def startDivisor (f c : Nat) : Nat := (512 * c + f) / (2 * f)

/-- Residual divider and period after the extraction, from the starting divisor at unit period (R100, R104). -/
def extraction (maxP f c : Nat) : Nat × Nat := extract maxP maxPasses (startDivisor f c) 1

/-- `Factorize(F, C)` of R100: the period and the divider, or failure. -/
def factorize (maxP f c : Nat) : Option (Nat × Nat) :=
  if f < 16 then none
  else if 8 * c < f then none
  else if (extraction maxP f c).1 < 16 ∨ 4096 ≤ (extraction maxP f c).1 then none
  else some ((extraction maxP f c).2, (extraction maxP f c).1)

/-- `Factorize` on register words, its result in the widths of `st.period` and `st.div16` (R9, R107). -/
def factorizeWord (maxP : Nat) (f c : Word) : Option (Level × Div16) :=
  (factorize maxP f.toNat c.toNat).map fun r => (BitVec.ofNat 16 r.1, BitVec.ofNat 12 r.2)

/-! ### The realisation of R101 -/

/-- One pass of R104 with a 37-bit residual, a 16-bit period and 19-bit products (R101). -/
def nextFactorW (maxP : Level) (d : BitVec 37) (p : Level) : Option (BitVec 37) :=
  if d % 5#37 = 0#37 ∧ 80#37 ≤ d ∧ p.setWidth 19 * 5#19 ≤ maxP.setWidth 19 then some 5#37
  else if d % 3#37 = 0#37 ∧ 48#37 ≤ d ∧ p.setWidth 19 * 3#19 ≤ maxP.setWidth 19 then some 3#37
  else if 32#37 ≤ d ∧ p.setWidth 19 * 2#19 ≤ maxP.setWidth 19 then some 2#37
  else none

/-- The loop of R100 in the widths of R101. -/
def extractW (maxP : Level) : Nat → BitVec 37 → Level → BitVec 37 × Level
  | 0, d, p => (d, p)
  | n + 1, d, p =>
    match nextFactorW maxP d p with
    | none => (d, p)
    | some k => extractW maxP n (d / k) (p * k.setWidth 16)

/-- `Factorize` in the widths of R101: 35 bits for `8*C`, 42 for `512*C + F`, 37 for the divisor. -/
def factorizeW (maxP : Level) (f c : Word) : Option (Level × Div16) :=
  if f < 16#32 then none
  else if 8#35 * c.setWidth 35 < f.setWidth 35 then none
  else
    let d0 : BitVec 37 := ((512#42 * c.setWidth 42 + f.setWidth 42) / (2#42 * f.setWidth 42)).setWidth 37
    let r := extractW maxP maxPasses d0 1#16
    if r.1 < 16#37 ∨ 4096#37 ≤ r.1 then none else some (r.2, r.1.setWidth 12)

end Sys2Proof.Machine
end

