-- ==== Sys2Proof/Machine/Operands.lean ====
section
/-! DEFINITION. The operand forms: the speed (R74, R160), the frequency (R75, used as it stands), the decay mode (R76),
and the encodings the block sends to the sink: the divider split (R78) and the wrap (R79). -/

namespace Sys2Proof.Machine

open Sys2Proof

/-- `Clamp(A)` of R160, as the integer in [−65536, 65536]. -/
def clampSpeed (a : Word) : Int := max (-65536) (min 65536 a.toInt)

/-- The clamped speed as the Q16.16 word `st.speed` holds (R74, R22). -/
def clampWord (a : Word) : Word := BitVec.ofInt 32 (clampSpeed a)

/-- The one-bit encoding of a decay mode (R76): 0 FastDecay, 1 SlowDecay. -/
def decayBit : Decay → BitVec 1
  | .fast => 0#1
  | .slow => 1#1

/-- The decay operand of R76: bits 31:1 must be zero, bit 0 is the mode. -/
def decayOperand (a : Word) : Option Decay :=
  if a.extractLsb' 1 31 = 0 then
    if a.getLsbD 0 then some .slow else some .fast
  else none

/-- `div_int = div16[11:4]` (R78). -/
def divInt (d : Div16) : BitVec 8 := d.extractLsb' 4 8

/-- `div_frac = div16[3:0]` (R78). -/
def divFrac (d : Div16) : BitVec 4 := d.extractLsb' 0 4

/-- The sink's wrap value for a period (R79). -/
def wrapOf (p : Level) : Level := p - 1#16

end Sys2Proof.Machine
end

