-- ==== Sys2Proof/Machine/Flags.lean ====
section
/-! DEFINITION. The status flags (R33, R39): the encodings of the lifecycle state (R20) and of the result code (R220), and
the words the window shows for `STATUS` (R33) and `CONFIG` (R38). -/

namespace Sys2Proof.Machine

open Sys2Proof

/-- The two-bit encoding of `st.life` (R20). -/
def lifeCode : Life → BitVec 2
  | .uninitialized => 0#2
  | .ready => 1#2
  | .tornDown => 2#2

/-- The four-bit encoding of a result code (R220). -/
def resultCode : ResultCode → BitVec 4
  | .ok => 0#4
  | .infeasibleFrequency => 1#4
  | .notInitialized => 2#4
  | .illegalCommand => 3#4
  | .badOperand => 4#4
  | .tornDown => 5#4

/-- The flag `READY`: 1 iff `st.life` is Ready (R33), the value 1 of its encoding. -/
def readyFlag (s : State) : Bool := lifeCode s.life == 1#2

/-- The flag `TORN_DOWN`: 1 iff `st.life` is TornDown (R33), the value 2 of its encoding. -/
def tornDownFlag (s : State) : Bool := lifeCode s.life == 2#2

/-- `STATUS` (R33), from bit 31 down. -/
def statusWord (s : State) : Word :=
  0#23 ++ decayBit s.decay ++ resultCode s.result ++ BitVec.ofBool (tornDownFlag s) ++ BitVec.ofBool s.enabled
    ++ BitVec.ofBool (readyFlag s) ++ BitVec.ofBool s.busy

/-- `CONFIG` (R38), from bit 31 down. -/
def configWord (c : Config) : Word :=
  0#14 ++ BitVec.ofBool c.sharedSlice ++ decayBit c.defaultDecay ++ c.pinNeg ++ c.pinPos

end Sys2Proof.Machine
end

