-- ==== Sys2Proof/Machine/Ops.lean ====
section
/-! DEFINITION. The operations the commands share: sampling the clock (R56), emitting transactions (R55, R27), the
transaction groups (R59, R128, R183), the output levels (R127), ending a command (R13, R221), the lifecycle checks (R223),
and the reset of the block's fields (R250). The block has no trap (R225): ending a command with a result code is the one
way it reports a failure. -/

namespace Sys2Proof.Machine

open Sys2Proof

/-- `SampleClock()`: the value the clock input has at the next sample (R56). Where the environment's list supplies none,
the value is the free draw (log entry 3). -/
def sampleClock (s : State) : Word :=
  match s.clockIn with
  | c :: _ => c
  | [] => Config.clockDraw s.draws

/-- The state after one sample: the sample is used up, and nothing else changes (R56: the value is not stored). -/
def afterSample (s : State) : State :=
  match s.clockIn with
  | _ :: cs => { s with clockIn := cs }
  | [] => { s with draws := s.draws + 1 }

/-- The shadow of the channel `ch` after the transaction `t` (R27, R55): the level just emitted to it, if `t` emits one. -/
def shadowAfter (ch : PinId) (t : Txn) (old : Level) : Level :=
  match t with
  | .sinkLevel c v => if c = ch then v else old
  | .sinkCfg _ _ _ _ => old
  | .sinkDiv _ _ _ => old
  | .sinkWrap _ _ => old
  | .sinkEnable _ => old
  | .pinClaim _ => old
  | .pinRelease _ => old

/-- `Emit(t)` (R13, R55): append `t` to the trace; a level also goes to its channel's shadow (R27). -/
def emit (s : State) (t : Txn) : State :=
  { s with
    trace := s.trace ++ [t]
    levelPos := shadowAfter s.cfg.pinPos t s.levelPos
    levelNeg := shadowAfter s.cfg.pinNeg t s.levelNeg }

/-- A list of transactions emitted in order. -/
def emitAll (ts : List Txn) (s : State) : State := ts.foldl emit s

/-- A slice-level transaction: to `PIN_POS` always, to `PIN_NEG` only when the slice is not shared (R59). -/
def perSlice (c : Config) (f : PinId → Txn) : List Txn :=
  if c.sharedSlice then [f c.pinPos] else [f c.pinPos, f c.pinNeg]

/-- `EmitLevels(pos, neg)` of R128. -/
def levelTxns (c : Config) (l : Level × Level) : List Txn :=
  [.sinkLevel c.pinPos l.1, .sinkLevel c.pinNeg l.2]

/-- `EmitDivider(D)` of R183. -/
def dividerTxns (c : Config) (d : Div16) : List Txn := perSlice c fun ch => .sinkDiv ch (divInt d) (divFrac d)

/-- `EmitWrap(P)` of R183. -/
def wrapTxns (c : Config) (p : Level) : List Txn := perSlice c fun ch => .sinkWrap ch (wrapOf p)

/-- The configure transactions of R140. -/
def configTxns (c : Config) (p : Level) (d : Div16) : List Txn :=
  perSlice c fun ch => .sinkCfg ch p (divInt d) (divFrac d)

/-- The enable transactions of R140. -/
def enableTxns (c : Config) : List Txn := perSlice c fun ch => .sinkEnable ch

/-- The pin claims of R140. -/
def claimTxns (c : Config) : List Txn := [.pinClaim c.pinPos, .pinClaim c.pinNeg]

/-- The pin releases of R146. -/
def releaseTxns (c : Config) : List Txn := [.pinRelease c.pinPos, .pinRelease c.pinNeg]

/-- `OutputLevels()` of R127, evaluated on the state a command is building. -/
def outputLevels (s : State) : Level × Level :=
  if s.enabled then dutyMap s.speed.toInt s.period s.decay else (0, 0)

/-- `Finish(code)` (R13): the code goes to `STATUS.RESULT` and `BUSY` is cleared. -/
def finish (r : ResultCode) (s : State) : State := { s with result := r, busy := false }

/-- The lifecycle check of every decoded command (R222): in TornDown it ends with TORN_DOWN. -/
def unlessTornDown (s : State) (body : State → State) : State :=
  match s.life with
  | .tornDown => finish .tornDown s
  | .uninitialized => body s
  | .ready => body s

/-- The lifecycle check of a mutator (R223): TORN_DOWN in TornDown, then NOT_INITIALIZED outside Ready. -/
def whenReady (s : State) (body : State → State) : State :=
  match s.life with
  | .tornDown => finish .tornDown s
  | .uninitialized => finish .notInitialized s
  | .ready => body s

/-- The end of every level-writing drive command: emit the output levels of the new state, then OK (R127, R128). -/
def driveLevels (n : State) : State := finish .ok (emitAll (levelTxns n.cfg (outputLevels n)) n)

/-- Reset (R250): every field of R44 takes its reset value. What is outside the block stays: the transactions already
emitted, the host's pending events and replies, the clock input, and the host's recorded fault (R252, R226). -/
def resetBlock (s : State) : State :=
  { State.resetOf s.cfg with
    trace := s.trace
    host := s.host
    replies := s.replies
    clockIn := s.clockIn
    draws := s.draws
    hostFault := s.hostFault }

end Sys2Proof.Machine
end

