-- ==== Sys2Proof/Machine/Drive.lean ====
section
/-! DEFINITION. The drive commands SET_SPEED, SET_DECAY_MODE, STOP and DISABLE (rules R160 to R170). -/

namespace Sys2Proof.Machine

open Sys2Proof

/-- SET_SPEED (R161): clamp and store, re-enable, drive the levels. -/
def execSetSpeed (s : State) : Host.Outcome State Fault Refusal :=
  .next (whenReady s fun s => driveLevels { s with speed := clampWord s.arg, enabled := true })

/-- SET_DECAY_MODE (R164): a bad operand is reported; else store the mode and drive the levels under it. -/
def execSetDecayMode (s : State) : Host.Outcome State Fault Refusal :=
  .next (whenReady s fun s =>
    match decayOperand s.arg with
    | none => finish .badOperand s
    | some m => driveLevels { s with decay := m })

/-- STOP (R166): speed 0, re-enable, drive the zero-speed levels. -/
def execStop (s : State) : Host.Outcome State Fault Refusal :=
  .next (whenReady s fun s => driveLevels { s with speed := 0, enabled := true })

/-- DISABLE (R168): speed 0, not enabled, and raw zero levels without the duty mapper. -/
def execDisable (s : State) : Host.Outcome State Fault Refusal :=
  .next (whenReady s fun s =>
    finish .ok (emitAll (levelTxns s.cfg (0, 0)) { s with speed := 0, enabled := false }))

end Sys2Proof.Machine
end

