-- ==== Sys2Proof/Machine/Lifecycle.lean ====
section
/-! DEFINITION. The lifecycle commands INIT and TEARDOWN (rules R140 to R149). -/

namespace Sys2Proof.Machine

open Sys2Proof

/-- The new state of a successful INIT before it emits (R140): `st.decay` is kept. -/
def initState (p : Level) (d : Div16) (s : State) : State :=
  { s with period := p, div16 := d, freq := s.cfg.defaultFreq, speed := 0, enabled := true, life := .ready }

/-- INIT's transactions in the order of R141: configure, levels, enable, claims. -/
def initTxns (n : State) : List Txn :=
  configTxns n.cfg n.period n.div16 ++ levelTxns n.cfg (outputLevels n) ++ enableTxns n.cfg ++ claimTxns n.cfg

/-- The body of INIT outside TornDown (R140, R142, R143). -/
def initBody (s : State) : State :=
  match factorizeWord s.cfg.maxPwmPeriod s.cfg.defaultFreq (sampleClock s) with
  | none => finish .infeasibleFrequency (afterSample s)
  | some r =>
    let n := initState r.1 r.2 (afterSample s)
    finish .ok (emitAll (initTxns n) n)

/-- INIT (R140). -/
def execInit (s : State) : Host.Outcome State Fault Refusal := .next (unlessTornDown s initBody)

/-- The body of TEARDOWN outside TornDown (R146, R148): both releases, and every other field as it was, the timing too
(log entry 10, DEDUCED). -/
def teardownBody (s : State) : State :=
  finish .ok { emitAll (releaseTxns s.cfg) s with life := .tornDown }

/-- TEARDOWN (R146). -/
def execTeardown (s : State) : Host.Outcome State Fault Refusal := .next (unlessTornDown s teardownBody)

end Sys2Proof.Machine
end

