-- ==== Sys2Proof/Machine/Queries.lean ====
section
/-! DEFINITION. The query commands GET_SPEED, GET_FREQUENCY and GET_DECAY_MODE (rules R200 to R205), and what a word that is
no command does (R206). -/

namespace Sys2Proof.Machine

open Sys2Proof

/-- A query's value goes to `RESULT`, then OK (R34). -/
def answer (v : Word) (s : State) : State := finish .ok { s with resultReg := v }

/-- GET_SPEED (R200). -/
def execGetSpeed (s : State) : Host.Outcome State Fault Refusal := .next (unlessTornDown s fun s => answer s.speed s)

/-- GET_FREQUENCY (R202). -/
def execGetFrequency (s : State) : Host.Outcome State Fault Refusal := .next (unlessTornDown s fun s => answer s.freq s)

/-- GET_DECAY_MODE (R204). -/
def execGetDecayMode (s : State) : Host.Outcome State Fault Refusal :=
  .next (unlessTornDown s fun s => answer ((decayBit s.decay).setWidth 32) s)

/-- ILLEGAL (R206): in every lifecycle state, the result code and nothing else. -/
def execIllegal (s : State) : Host.Outcome State Fault Refusal := .next (finish .illegalCommand s)

end Sys2Proof.Machine
end

