-- ==== Sys2Proof/Machine/SetFrequency.lean ====
section
/-! DEFINITION. SET_FREQUENCY and the glitch-free update order (rules R180 to R189). -/

namespace Sys2Proof.Machine

open Sys2Proof

/-- The new state of a successful SET_FREQUENCY before it emits (R180, R187, R188). -/
def frequencyState (p : Level) (d : Div16) (s : State) : State :=
  { s with period := p, div16 := d, freq := s.arg }

/-- The transactions of R180: levels first when the period grows (R181), levels last otherwise (R182). -/
def frequencyTxns (oldPeriod : Level) (n : State) : List Txn :=
  if oldPeriod < n.period then
    levelTxns n.cfg (outputLevels n) ++ dividerTxns n.cfg n.div16 ++ wrapTxns n.cfg n.period
  else
    dividerTxns n.cfg n.div16 ++ wrapTxns n.cfg n.period ++ levelTxns n.cfg (outputLevels n)

/-- The body of SET_FREQUENCY in Ready (R180, R184). -/
def setFrequencyBody (s : State) : State :=
  match factorizeWord s.cfg.maxPwmPeriod s.arg (sampleClock s) with
  | none => finish .infeasibleFrequency (afterSample s)
  | some r =>
    let n := frequencyState r.1 r.2 (afterSample s)
    finish .ok (emitAll (frequencyTxns s.period n) n)

/-- SET_FREQUENCY (R180). -/
def execSetFrequency (s : State) : Host.Outcome State Fault Refusal := .next (whenReady s setFrequencyBody)

end Sys2Proof.Machine
end

