-- ==== Sys2Proof/Machine/Dispatch.lean ====
section
/-! DEFINITION. The one dispatch from a command to its meaning (rule R72). -/

namespace Sys2Proof.Machine

open Sys2Proof

def exec (i : Instr) (s : State) : Host.Outcome State Fault Refusal :=
  match i with
  | .init => Sys2Proof.Machine.execInit s
  | .setSpeed => Sys2Proof.Machine.execSetSpeed s
  | .setFrequency => Sys2Proof.Machine.execSetFrequency s
  | .setDecayMode => Sys2Proof.Machine.execSetDecayMode s
  | .stop => Sys2Proof.Machine.execStop s
  | .disable => Sys2Proof.Machine.execDisable s
  | .getSpeed => Sys2Proof.Machine.execGetSpeed s
  | .getFrequency => Sys2Proof.Machine.execGetFrequency s
  | .getDecayMode => Sys2Proof.Machine.execGetDecayMode s
  | .teardown => Sys2Proof.Machine.execTeardown s

end Sys2Proof.Machine
end

