-- ==== Sys2Proof/Machine/Window.lean ====
section
/-! DEFINITION. The host register window (rules R30 to R40, R50 to R54): what each offset reads as, its byte lanes, which
accesses are admitted, and where the platform's base address puts it. -/

namespace Sys2Proof.Machine

open Sys2Proof

/-- The window admits 32-bit accesses at offsets that are multiples of 4, and no other (R52). -/
def admitted (width : AccessWidth) (offset : BitVec 6) : Bool :=
  decide (width = .word) && decide (offset.toNat % 4 = 0)

/-- What a read of the register at an offset returns (R30): a read of `CMD` and of a reserved offset is 0 (R31, R40). -/
def readReg (s : State) (offset : BitVec 6) : Word :=
  match offset.toNat with
  | 0x00 => 0
  | 0x04 => s.arg
  | 0x08 => statusWord s
  | 0x0C => s.resultReg
  | 0x10 => s.speed
  | 0x14 => s.freq
  | 0x18 => s.period.setWidth 32
  | 0x1C => s.div16.setWidth 32
  | 0x20 => s.levelPos.setWidth 32
  | 0x24 => s.levelNeg.setWidth 32
  | 0x28 => configWord s.cfg
  | 0x2C => BitVec.ofNat 32 s.cfg.maxPwmPeriod
  | 0x30 => s.cfg.defaultFreq
  | _ => 0

/-- The byte the window presents at an offset on a byte-addressed bus: lane `offset mod 4` of its register (R53). -/
def windowByte (s : State) (offset : BitVec 6) : Byte :=
  laneOfWord (readReg s (offset &&& 0x3C#6)) (offset.toNat % 4)

/-- The offset of a bus address in the window that the platform places at `base`, if it is in it (R51). `base` is the
OPEN parameter `BASE` of the platform. -/
def windowOffset (base addr : Nat) : Option (BitVec 6) :=
  if base ≤ addr ∧ addr < base + 64 then some (BitVec.ofNat 6 (addr - base)) else none

end Sys2Proof.Machine
end

