-- ==== Sys2Proof/Machine/Bus.lean ====
section
/-! DEFINITION. What the block does with each event of its host and of its reset input: window reads and writes (R31, R40,
R52, R54), the start of a command (R31, R71), the handshake (R262) and reset (R250). -/

namespace Sys2Proof.Machine

open Sys2Proof

/-- A write of `w` to `CMD` starts command `w` (R31): `BUSY` is set until the command finishes (R20, R270), and the
decoded command runs, or ILLEGAL does (R71). -/
def startCommand (w : Word) (s : State) : Host.Outcome State Fault Refusal :=
  match decode w with
  | .command i => exec i { s with busy := true }
  | .illegal _ => execIllegal { s with busy := true }

/-- An access that the window does not admit (R52): the bus reports an error, the block is unaffected, and the host's
fault is recorded for good (R226 (a); log entry 5). -/
def busError (s : State) : State := { s with replies := s.replies ++ [.busError], hostFault := true }

/-- A host read (R54): no side effect on the block; the bus returns the register. -/
def hostRead (width : AccessWidth) (offset : BitVec 6) (s : State) : Host.Outcome State Fault Refusal :=
  if admitted width offset then .next { s with replies := s.replies ++ [.data (readReg s offset)] }
  else .next (busError s)

/-- A host write (R31, R32, R40): to `CMD` it starts a command, to `ARG` it sets the operand, elsewhere it is ignored. A
write to `CMD` or `ARG` while `BUSY = 1` is a fault of the host program (R226 (b)). -/
def hostWrite (width : AccessWidth) (offset : BitVec 6) (v : Word) (s : State) : Host.Outcome State Fault Refusal :=
  if admitted width offset then
    match offset.toNat with
    | 0x00 => if s.busy then .fault .writeWhileBusy else startCommand v s
    | 0x04 => if s.busy then .fault .writeWhileBusy else .next { s with arg := v }
    | _ => .next s
  else .next (busError s)

/-- A window access between commands (R54). -/
def hostAccess (a : Access) (s : State) : Host.Outcome State Fault Refusal :=
  match a with
  | .read width offset => hostRead width offset s
  | .write width offset v => hostWrite width offset v s

/-- Reset asserted in the middle of a command that would have led to `done` (R250): the state is the reset state, and of
the command's transactions only the first `k` were emitted (U20). -/
def abandonCommand (k : Nat) (s done : State) : State :=
  { resetBlock done with trace := s.trace ++ (done.trace.drop s.trace.length).take k }

/-- A write of `w` to `CMD` with reset asserted while `BUSY = 1` (R250; log entry 7). -/
def resetDuring (w : Word) (k : Nat) (s : State) : Host.Outcome State Fault Refusal :=
  match hostWrite .word 0x00#6 w s with
  | .next done => .next (abandonCommand k s done)
  | .fault r => .fault r
  | .refused r => .refused r

/-- A write of `w` to `CMD`, and before `BUSY` is back to 0 a write of `v` to `CMD` or to `ARG` (R226 (b), R262;
log entry 6). -/
def overrun (w : Word) (toArg : Bool) (v : Word) (s : State) : Host.Outcome State Fault Refusal :=
  match hostWrite .word 0x00#6 w s with
  | .next _ => hostWrite .word (if toArg then 0x04#6 else 0x00#6) v { s with busy := true }
  | .fault r => .fault r
  | .refused r => .refused r

/-- One event (R15, R28). -/
def handleEvent (e : HostEvent) (s : State) : Host.Outcome State Fault Refusal :=
  match e with
  | .access a => hostAccess a s
  | .reset => .next (resetBlock s)
  | .resetDuring w k => resetDuring w k s
  | .overrun w toArg v => overrun w toArg v s

/-- The block with nothing pending waits for a host write and changes nothing (R251); else the next event happens. -/
def nextEvent (s : State) : Host.Outcome State Fault Refusal :=
  match s.host with
  | [] => .next s
  | e :: es => handleEvent e { s with host := es }

/-- The event that writes a command word to `CMD` (R31). -/
def cmdWrite (w : Word) : HostEvent := .access (.write .word 0x00#6 w)

/-- The event that writes an operand to `ARG` (R32). -/
def argWrite (v : Word) : HostEvent := .access (.write .word 0x04#6 v)

/-- The event that polls `STATUS` (R262). -/
def statusRead : HostEvent := .access (.read .word 0x08#6)

end Sys2Proof.Machine
end

