-- ==== Sys2Proof/Machine/Step.lean ====
section
/-! DEFINITION. One step: the next event of the host or of the reset input, with a whole command in one step (R16). And how a
command word is put where the next step takes it from. -/

namespace Sys2Proof.Machine

open Sys2Proof

/-- One step of the machine (R16). The block fetches nothing (R63): its next command is the host's next write to `CMD`. -/
def step (s : State) : Host.Outcome State Fault Refusal := nextEvent s

/-- The state whose next step runs the command word `w`: the host's next event is the write of `w` to `CMD`, and the
block is not busy, as the handshake asks (R262). -/
def State.withFetchWord (s : State) (nbits w : Nat) : State :=
  { s with host := cmdWrite (BitVec.ofNat 32 (w % 2 ^ nbits)) :: s.host, busy := false }

end Sys2Proof.Machine
end

