-- ==== Sys2Proof/Machine/Assembler.lean ====
section
/-! DEFINITION. The textual command form and its expansion to host accesses (rules R86 to R89). It belongs to the host, not to
the block: no command's meaning uses it. Text is a list of characters. -/

namespace Sys2Proof.Machine

open Sys2Proof

/-- A decimal literal of R86: plus or minus `mantissa / 10 ^ scale`. -/
structure Decimal where
  negative : Bool
  mantissa : Nat
  scale : Nat
deriving DecidableEq, Repr

/-- An operand of R86. A hex literal is the raw `ARG` word. -/
inductive Literal where
  | decimal (d : Decimal)
  | hex (v : Nat)
  | slow
  | fast
deriving DecidableEq, Repr

/-- A command line of R86. -/
structure Line where
  instr : Instr
  operand : Option Literal
deriving DecidableEq, Repr

/-- A line whose operand has been converted to the `ARG` word (R87). -/
structure Assembled where
  instr : Instr
  argWord : Option Word
deriving DecidableEq, Repr

/-- A 32-bit bus write of the host (R88). -/
structure BusWrite where
  addr : Nat
  value : Word
deriving DecidableEq, Repr

/-! ### Reading a line (R86) -/

/-- What separates the words of a line: a space or a tab (log entry 9). -/
def isBlank (c : Char) : Bool := c.toNat == 32 || c.toNat == 9

/-- The words of a line, up to its comment, which runs from a semicolon to the end. -/
def lineWords : List Char → List Char → List (List Char)
  | cur, [] => if cur.isEmpty then [] else [cur]
  | cur, c :: cs =>
    if c.toNat == 59 then (if cur.isEmpty then [] else [cur])
    else if isBlank c then (if cur.isEmpty then lineWords [] cs else cur :: lineWords [] cs)
    else lineWords (cur ++ [c]) cs

/-- A mnemonic's text (R72, R86). -/
def mnemonicText : Instr → List Char
  | .init => ['I', 'N', 'I', 'T']
  | .setSpeed => ['S', 'E', 'T', '_', 'S', 'P', 'E', 'E', 'D']
  | .setFrequency => ['S', 'E', 'T', '_', 'F', 'R', 'E', 'Q', 'U', 'E', 'N', 'C', 'Y']
  | .setDecayMode => ['S', 'E', 'T', '_', 'D', 'E', 'C', 'A', 'Y', '_', 'M', 'O', 'D', 'E']
  | .stop => ['S', 'T', 'O', 'P']
  | .disable => ['D', 'I', 'S', 'A', 'B', 'L', 'E']
  | .getSpeed => ['G', 'E', 'T', '_', 'S', 'P', 'E', 'E', 'D']
  | .getFrequency => ['G', 'E', 'T', '_', 'F', 'R', 'E', 'Q', 'U', 'E', 'N', 'C', 'Y']
  | .getDecayMode => ['G', 'E', 'T', '_', 'D', 'E', 'C', 'A', 'Y', '_', 'M', 'O', 'D', 'E']
  | .teardown => ['T', 'E', 'A', 'R', 'D', 'O', 'W', 'N']

/-- All commands, in the order of their opcodes. -/
def allInstrs : List Instr :=
  [.init, .setSpeed, .setFrequency, .setDecayMode, .stop, .disable, .getSpeed, .getFrequency, .getDecayMode, .teardown]

/-- The command of a mnemonic. -/
def parseMnemonic (m : List Char) : Option Instr := allInstrs.find? fun i => decide (mnemonicText i = m)

/-- The value of a decimal digit. -/
def decDigit (c : Char) : Option Nat := if 48 ≤ c.toNat ∧ c.toNat ≤ 57 then some (c.toNat - 48) else none

/-- The value of a hexadecimal digit, in either case (log entry 9). -/
def hexDigit (c : Char) : Option Nat :=
  if 48 ≤ c.toNat ∧ c.toNat ≤ 57 then some (c.toNat - 48)
  else if 97 ≤ c.toNat ∧ c.toNat ≤ 102 then some (c.toNat - 87)
  else if 65 ≤ c.toNat ∧ c.toNat ≤ 70 then some (c.toNat - 55)
  else none

/-- The value of a run of digits in a base, after `acc`. -/
def digitsValue (base : Nat) (val : Char → Option Nat) : Nat → List Char → Option Nat
  | acc, [] => some acc
  | acc, c :: cs =>
    match val c with
    | none => none
    | some d => digitsValue base val (acc * base + d) cs

/-- `digits [ '.' digits ]` of R86, with the sign already read. -/
def parseUnsigned (negative : Bool) (cs : List Char) : Option Decimal :=
  let whole := cs.takeWhile fun c => decide (c ≠ '.')
  match cs.drop whole.length with
  | [] =>
    if whole.isEmpty then none
    else (digitsValue 10 decDigit 0 whole).map fun m => ⟨negative, m, 0⟩
  | _ :: frac =>
    if whole.isEmpty || frac.isEmpty then none
    else (digitsValue 10 decDigit 0 (whole ++ frac)).map fun m => ⟨negative, m, frac.length⟩

/-- An operand of R86. -/
def parseLiteral (cs : List Char) : Option Literal :=
  if cs = ['S', 'L', 'O', 'W'] then some .slow
  else if cs = ['F', 'A', 'S', 'T'] then some .fast
  else
    match cs with
    | '0' :: 'x' :: h => if h.isEmpty then none else (digitsValue 16 hexDigit 0 h).map .hex
    | '-' :: rest => (parseUnsigned true rest).map .decimal
    | rest => (parseUnsigned false rest).map .decimal

/-- A line of R86; none where the text is no line. -/
def parseLine (cs : List Char) : Option Line :=
  match lineWords [] cs with
  | [m] => (parseMnemonic m).map fun i => ⟨i, none⟩
  | [m, o] =>
    match parseMnemonic m, parseLiteral o with
    | some i, some l => some ⟨i, some l⟩
    | _, _ => none
  | _ => none

/-! ### Converting the operand (R87) -/

/-- A non-negative quotient rounded to nearest, half up, which is half away from zero for a magnitude. -/
def roundQuotient (num den : Nat) : Nat := (2 * num + den) / (2 * den)

/-- `round_half_away(v * factor)` of R87, for the decimal `v`. -/
def scaledLiteral (d : Decimal) (factor : Nat) : Int :=
  let m : Int := (roundQuotient (d.mantissa * factor) (10 ^ d.scale) : Nat)
  if d.negative then -m else m

/-- A decimal speed as a Q16.16 word; none where the word does not fit (R87). -/
def encSpeed (d : Decimal) : Option Word :=
  let n := scaledLiteral d 65536
  if -2147483648 ≤ n ∧ n ≤ 2147483647 then some (BitVec.ofInt 32 n) else none

/-- A decimal frequency as a UQ28.4 word; none where it is negative or does not fit (R87). -/
def encFreq (d : Decimal) : Option Word :=
  let n := scaledLiteral d 16
  if 0 ≤ n ∧ n ≤ 4294967295 then some (BitVec.ofInt 32 n) else none

/-- A hex literal is used unchanged; none where it does not fit in 32 bits (R87). -/
def encHex (v : Nat) : Option Word := if v < 2 ^ 32 then some (BitVec.ofNat 32 v) else none

/-- The line with its operand converted; none for an operand the mnemonic does not take (R86) or that does not fit
(R87). -/
def assemble (l : Line) : Option Assembled :=
  match l.instr, l.operand with
  | .setSpeed, some (.decimal d) => (encSpeed d).map fun w => ⟨.setSpeed, some w⟩
  | .setSpeed, some (.hex v) => (encHex v).map fun w => ⟨.setSpeed, some w⟩
  | .setFrequency, some (.decimal d) => (encFreq d).map fun w => ⟨.setFrequency, some w⟩
  | .setFrequency, some (.hex v) => (encHex v).map fun w => ⟨.setFrequency, some w⟩
  | .setDecayMode, some .slow => some ⟨.setDecayMode, some 0x00000001#32⟩
  | .setDecayMode, some .fast => some ⟨.setDecayMode, some 0x00000000#32⟩
  | .setDecayMode, some (.hex v) => (encHex v).map fun w => ⟨.setDecayMode, some w⟩
  | .init, none => some ⟨.init, none⟩
  | .stop, none => some ⟨.stop, none⟩
  | .disable, none => some ⟨.disable, none⟩
  | .getSpeed, none => some ⟨.getSpeed, none⟩
  | .getFrequency, none => some ⟨.getFrequency, none⟩
  | .getDecayMode, none => some ⟨.getDecayMode, none⟩
  | .teardown, none => some ⟨.teardown, none⟩
  | _, _ => none

/-! ### Expanding to bus writes (R88) -/

/-- The bus writes of a line, for a window at `base` (R88, R51). -/
def expand (base : Nat) (a : Assembled) : List BusWrite :=
  match a.argWord with
  | some w => [⟨base + 0x04, w⟩, ⟨base + 0x00, encode a.instr⟩]
  | none => [⟨base + 0x00, encode a.instr⟩]

/-- A bus write as an access to the window at `base`; none outside the window (R51). -/
def busEvent (base : Nat) (b : BusWrite) : Option HostEvent :=
  (windowOffset base b.addr).map fun o => .access (.write .word o b.value)

/-- The host's accesses for a line: its writes, then one poll of `STATUS` (R88; one poll is enough, since a command is one
step and `BUSY` then reads 0, R262). -/
def lineEvents (base : Nat) (a : Assembled) : List HostEvent :=
  (expand base a).filterMap (busEvent base) ++ [statusRead]

end Sys2Proof.Machine
end

