-- ==== Sys2Proof/Machine/Transaction.lean ====
section
/-! DEFINITION. The 39-bit wire form of a transaction (rule R85), written and read back. -/

namespace Sys2Proof.Machine

open Sys2Proof

/-- The five fields of R85, `DIV_FRAC` in the high bits and `KIND` in the low ones. -/
def packTxn (kind : BitVec 3) (ident : BitVec 8) (val16 : BitVec 16) (dInt : BitVec 8) (dFrac : BitVec 4) : BitVec 39 :=
  dFrac ++ dInt ++ val16 ++ ident ++ kind

/-- The 39-bit word of a transaction: unused fields are 0 (R85). -/
def txnWord : Txn → BitVec 39
  | .sinkCfg ch p di df => packTxn 0#3 ch p di df
  | .sinkDiv ch di df => packTxn 1#3 ch 0#16 di df
  | .sinkWrap ch w => packTxn 2#3 ch w 0#8 0#4
  | .sinkLevel ch v => packTxn 3#3 ch v 0#8 0#4
  | .sinkEnable ch => packTxn 4#3 ch 0#16 0#8 0#4
  | .pinClaim p => packTxn 5#3 p 0#16 0#8 0#4
  | .pinRelease p => packTxn 6#3 p 0#16 0#8 0#4

/-- The transaction of a 39-bit word; none for `KIND` 7, which is never emitted, and for a word with a nonzero unused
field. -/
def txnOfWord (w : BitVec 39) : Option Txn :=
  let ident := w.extractLsb' 3 8
  let val16 := w.extractLsb' 11 16
  let dInt := w.extractLsb' 27 8
  let dFrac := w.extractLsb' 35 4
  match (w.extractLsb' 0 3).toNat with
  | 0 => some (.sinkCfg ident val16 dInt dFrac)
  | 1 => if val16 = 0 then some (.sinkDiv ident dInt dFrac) else none
  | 2 => if dInt = 0 ∧ dFrac = 0 then some (.sinkWrap ident val16) else none
  | 3 => if dInt = 0 ∧ dFrac = 0 then some (.sinkLevel ident val16) else none
  | 4 => if val16 = 0 ∧ dInt = 0 ∧ dFrac = 0 then some (.sinkEnable ident) else none
  | 5 => if val16 = 0 ∧ dInt = 0 ∧ dFrac = 0 then some (.pinClaim ident) else none
  | 6 => if val16 = 0 ∧ dInt = 0 ∧ dFrac = 0 then some (.pinRelease ident) else none
  | _ => none

end Sys2Proof.Machine
end

