-- ==== Sys2Proof/Safety.lean ====
section
/-! DEFINITION. What the claims speak of: the invariants of rules R41, R25 and R182, what a run free of host faults is
(R226), and what a trace says of the sink and of the pins (R42). -/

namespace Sys2Proof.Machine

open Sys2Proof

/-- The four invariants of R41, (a) to (d). -/
structure BlockInv (s : State) : Prop where
  /-- (a) -/
  speedClamped : -65536 ≤ s.speed.toInt ∧ s.speed.toInt ≤ 65536
  /-- (b) -/
  timingValid : s.life = .ready →
    1 ≤ s.period.toNat ∧ s.period.toNat ≤ s.cfg.maxPwmPeriod ∧ 16 ≤ s.div16.toNat ∧ s.div16.toNat ≤ 4095
  /-- (c) -/
  levelsBounded : s.life = .ready → s.levelPos.toNat ≤ s.period.toNat ∧ s.levelNeg.toNat ≤ s.period.toNat
  /-- (d) -/
  enabledAfterInit : s.enabled = true → s.life = .ready ∨ s.life = .tornDown

/-- What holds between two steps: R41, and beside it that no command is in progress (R262), that a block that was never
initialised has no timing, no speed and no level (R25, R200), and that the levels last written are the output levels of the
state (R182). -/
structure Inv (s : State) : Prop extends BlockInv s where
  idle : s.busy = false
  nothingBeforeInit : s.life = .uninitialized →
    s.period = 0 ∧ s.div16 = 0 ∧ s.speed = 0 ∧ s.levelPos = 0 ∧ s.levelNeg = 0
  levelsInForce : s.life = .ready → (s.levelPos, s.levelNeg) = outputLevels s

/-- A state that counts as an answer of a run: no fault of the host program has been recorded (R226: such a fault is never
final). A run that ends in `Fault.writeWhileBusy` has no state at all. -/
def SafeState (s : State) : Prop := s.hostFault = false

/-- The mutators of R220, which NOT_INITIALIZED concerns. -/
def isMutator : Instr → Bool
  | .setSpeed => true
  | .setFrequency => true
  | .setDecayMode => true
  | .stop => true
  | .disable => true
  | .init => false
  | .getSpeed => false
  | .getFrequency => false
  | .getDecayMode => false
  | .teardown => false

/-- An event that asserts reset. -/
def isReset : HostEvent → Bool
  | .reset => true
  | .resetDuring _ _ => true
  | .access _ => false
  | .overrun _ _ _ => false

/-- The transactions emitted between two states of a run, oldest first (R55). -/
def newTxns (s t : State) : List Txn := t.trace.drop s.trace.length

/-- The level that the transactions `ts` leave the channel `ch` with, from the level `v` before them (R42). -/
def lastLevel (ch : PinId) : List Txn → Nat → Nat
  | [], v => v
  | .sinkLevel c l :: ts, v => lastLevel ch ts (if c = ch then l.toNat else v)
  | _ :: ts, v => lastLevel ch ts v

/-- The wrap that the `SINK_WRAP` transactions among `ts` leave the slice addressed by the channel `ch` with, from the wrap
`v` before them (R42). DESIGN CHOICE, log entry 16: the period that a `SINK_CFG` carries is not counted as a wrap, so the
window of a second INIT (R268) does not show through this function. -/
def lastWrap (ch : PinId) : List Txn → Nat → Nat
  | [], v => v
  | .sinkWrap c w :: ts, v => lastWrap ch ts (if c = ch then w.toNat else v)
  | _ :: ts, v => lastWrap ch ts v

/-- The channel that addresses the slice of a channel (R59): a shared slice is addressed by `PIN_POS`. -/
def sliceChannel (c : Config) (ch : PinId) : PinId := if c.sharedSlice then c.pinPos else ch

end Sys2Proof.Machine
end

