-- ==== Sys2Proof/Certificates/Slice0/Obligations.lean ====
section
/-! DEFINITION. The statements for the provers. Each is a rule of spec/ about every state, or about every input, of the model. -/

open Sys2Proof Sys2Proof.Machine

/-! ### Encoding (30_encoding.md) -/

/-- R72: the ten command words, written out bit by bit, decode to their commands, and opcodes 0x0 and 0xB to 0xF and words
with a bit in `RSVD` are illegal. -/
def Obligations.OpcodeTableWordsDecode : Prop :=
  decode 0b00000000000000000000000000000001#32 = .command .init ∧
  decode 0b00000000000000000000000000000010#32 = .command .setSpeed ∧
  decode 0b00000000000000000000000000000011#32 = .command .setFrequency ∧
  decode 0b00000000000000000000000000000100#32 = .command .setDecayMode ∧
  decode 0b00000000000000000000000000000101#32 = .command .stop ∧
  decode 0b00000000000000000000000000000110#32 = .command .disable ∧
  decode 0b00000000000000000000000000000111#32 = .command .getSpeed ∧
  decode 0b00000000000000000000000000001000#32 = .command .getFrequency ∧
  decode 0b00000000000000000000000000001001#32 = .command .getDecayMode ∧
  decode 0b00000000000000000000000000001010#32 = .command .teardown ∧
  decode 0b00000000000000000000000000000000#32 = .illegal .illegalOpcode ∧
  decode 0b00000000000000000000000000001011#32 = .illegal .illegalOpcode ∧
  decode 0b00000000000000000000000000001111#32 = .illegal .illegalOpcode ∧
  decode 0b00000000000000000000000000010010#32 = .illegal .reservedBits ∧
  decode 0b10000000000000000000000000000001#32 = .illegal .reservedBits

/-- R71, R73, R206: what every 32-bit word decodes to, and that a word that is no command ends, in every lifecycle state,
with ILLEGAL_COMMAND and no other effect. -/
def Obligations.EveryWordIsACommandOrIllegal : Prop :=
  (∀ w : Word, decode w =
    match w.toNat with
    | 1 => .command .init
    | 2 => .command .setSpeed
    | 3 => .command .setFrequency
    | 4 => .command .setDecayMode
    | 5 => .command .stop
    | 6 => .command .disable
    | 7 => .command .getSpeed
    | 8 => .command .getFrequency
    | 9 => .command .getDecayMode
    | 10 => .command .teardown
    | n => if n < 16 then .illegal .illegalOpcode else .illegal .reservedBits) ∧
  (∀ (s : State) (w : Word) (r : IllegalReason) (es : List HostEvent),
    s.host = cmdWrite w :: es → s.busy = false → decode w = .illegal r →
    step s = .next { s with host := es, result := .illegalCommand, busy := false })

/-- Decoding and encoding agree. R70 to R72: a word decodes to a command exactly when it is that command's word. R53 and log
entry 14 (DESIGN CHOICE): the decoder over bytes, a form of the model's own, reads the four byte lanes of a command, lane 0
first, and leaves the rest. -/
def Obligations.DecodeAgreesWithEncode : Prop :=
  (∀ (w : Word) (i : Instr), decode w = .command i ↔ w = encode i) ∧
  (∀ (i : Instr) (rest : List Byte), decodeBytes (encodeBytes i ++ rest) = (.command i, rest))

/-- R85: the five fields of the 39-bit word of each kind of transaction, that transactions and their words are in
one-to-one correspondence, and the rule's example. -/
def Obligations.TransactionWordsAreOneToOne : Prop :=
  (∀ (ch : PinId) (p : Level) (di : BitVec 8) (df : BitVec 4),
    (txnWord (.sinkCfg ch p di df)).toNat =
      0 + ch.toNat * 2 ^ 3 + p.toNat * 2 ^ 11 + di.toNat * 2 ^ 27 + df.toNat * 2 ^ 35) ∧
  (∀ (ch : PinId) (di : BitVec 8) (df : BitVec 4),
    (txnWord (.sinkDiv ch di df)).toNat = 1 + ch.toNat * 2 ^ 3 + di.toNat * 2 ^ 27 + df.toNat * 2 ^ 35) ∧
  (∀ (ch : PinId) (w : Level), (txnWord (.sinkWrap ch w)).toNat = 2 + ch.toNat * 2 ^ 3 + w.toNat * 2 ^ 11) ∧
  (∀ (ch : PinId) (l : Level), (txnWord (.sinkLevel ch l)).toNat = 3 + ch.toNat * 2 ^ 3 + l.toNat * 2 ^ 11) ∧
  (∀ ch : PinId, (txnWord (.sinkEnable ch)).toNat = 4 + ch.toNat * 2 ^ 3) ∧
  (∀ pin : PinId, (txnWord (.pinClaim pin)).toNat = 5 + pin.toNat * 2 ^ 3) ∧
  (∀ pin : PinId, (txnWord (.pinRelease pin)).toNat = 6 + pin.toNat * 2 ^ 3) ∧
  (∀ (t : Txn) (w : BitVec 39), txnOfWord w = some t ↔ w = txnWord t) ∧
  txnWord (.sinkWrap 3#8 4999#16) = 0x9C381A#39

/-! ### A step and the host window (10_state.md, 20_memory.md) -/

/-- R31, R16: when the host's next access writes a command word to `CMD`, the step is that command's meaning, on the state
in which the access is used up and `BUSY` is set. -/
def Obligations.StepRunsTheDecodedCommand : Prop :=
  ∀ (s : State) (w : Word) (i : Instr) (es : List HostEvent),
    s.host = cmdWrite w :: es → s.busy = false → decode w = .command i →
    step s = exec i { s with host := es, busy := true }

/-- A word that the table's decoder reads as a command, put where the next step takes it, is the command that step runs. -/
def Obligations.PlacedWordIsRunByTheNextStep : Prop :=
  ∀ (s : State) (nbits w : Nat) (i : Instr),
    decodeTableWord nbits w = some i → step (s.withFetchWord nbits w) = exec i { s with busy := true }

/-- R33: every bit of `STATUS`, its value after reset, and that a write to it is ignored. -/
def Obligations.StatusRegisterLayout : Prop :=
  (∀ s : State,
    (readReg s 0x08#6).getLsbD 0 = s.busy ∧
    (readReg s 0x08#6).getLsbD 1 = decide (s.life = .ready) ∧
    (readReg s 0x08#6).getLsbD 2 = s.enabled ∧
    (readReg s 0x08#6).getLsbD 3 = decide (s.life = .tornDown) ∧
    ((readReg s 0x08#6).extractLsb' 4 4).toNat =
      (match s.result with
      | .ok => 0
      | .infeasibleFrequency => 1
      | .notInitialized => 2
      | .illegalCommand => 3
      | .badOperand => 4
      | .tornDown => 5) ∧
    (readReg s 0x08#6).getLsbD 8 = decide (s.decay = .slow) ∧
    (readReg s 0x08#6).extractLsb' 9 23 = 0#23 ∧
    ¬ ((readReg s 0x08#6).getLsbD 1 = true ∧ (readReg s 0x08#6).getLsbD 3 = true) ∧
    (((readReg s 0x08#6).getLsbD 1 = false ∧ (readReg s 0x08#6).getLsbD 3 = false) ↔ s.life = .uninitialized)) ∧
  (∀ c : Config, readReg (State.resetOf c) 0x08#6 = if c.defaultDecay = .slow then 0x100#32 else 0x000#32) ∧
  (∀ (s : State) (v : Word) (es : List HostEvent),
    s.host = .access (.write .word 0x08#6 v) :: es → step s = .next { s with host := es })

/-- R38: the fields of `CONFIG`, the registers `MAXPER` and `DEFFREQ`, and that no step changes what the three read. -/
def Obligations.ConfigurationRegistersNeverChange : Prop :=
  (∀ s : State,
    (readReg s 0x28#6).extractLsb' 0 8 = s.cfg.pinPos ∧
    (readReg s 0x28#6).extractLsb' 8 8 = s.cfg.pinNeg ∧
    (readReg s 0x28#6).getLsbD 16 = decide (s.cfg.defaultDecay = .slow) ∧
    (readReg s 0x28#6).getLsbD 17 = s.cfg.sharedSlice ∧
    (readReg s 0x28#6).extractLsb' 18 14 = 0#14 ∧
    (readReg s 0x2C#6).toNat = s.cfg.maxPwmPeriod ∧
    readReg s 0x30#6 = s.cfg.defaultFreq) ∧
  (∀ s t : State, step s = .next t →
    readReg t 0x28#6 = readReg s 0x28#6 ∧ readReg t 0x2C#6 = readReg s 0x2C#6 ∧ readReg t 0x30#6 = readReg s 0x30#6)

/-- R35, R36: the six mirrors, their high bits (the equations are between numbers), and that an admitted read of any
register changes nothing but what the bus has returned. -/
def Obligations.MirrorRegistersShowTheState : Prop :=
  (∀ s : State,
    readReg s 0x10#6 = s.speed ∧
    readReg s 0x14#6 = s.freq ∧
    (readReg s 0x18#6).toNat = s.period.toNat ∧
    (readReg s 0x1C#6).toNat = s.div16.toNat ∧
    (readReg s 0x20#6).toNat = s.levelPos.toNat ∧
    (readReg s 0x24#6).toNat = s.levelNeg.toNat) ∧
  (∀ (s : State) (offset : BitVec 6) (es : List HostEvent),
    offset.toNat % 4 = 0 → s.host = .access (.read .word offset) :: es →
    step s = .next { s with host := es, replies := s.replies ++ [.data (readReg s offset)] })

/-- R40, R31: reserved offsets and `CMD` read 0, admitted writes to a reserved offset or to a read-only register have no effect, and a
write to `CMD` or `ARG` while `BUSY = 1` is a host-protocol fault. -/
def Obligations.ReservedAndReadOnlyOffsets : Prop :=
  (∀ s : State, readReg s 0x34#6 = 0#32 ∧ readReg s 0x38#6 = 0#32 ∧ readReg s 0x3C#6 = 0#32 ∧
    readReg s 0x00#6 = 0#32) ∧
  (∀ (s : State) (offset : BitVec 6) (v : Word) (es : List HostEvent),
    offset.toNat % 4 = 0 → 0x08 ≤ offset.toNat → s.host = .access (.write .word offset v) :: es →
    step s = .next { s with host := es }) ∧
  (∀ (s : State) (v : Word) (es : List HostEvent),
    s.busy = true → (s.host = cmdWrite v :: es ∨ s.host = argWrite v :: es) → step s = .fault .writeWhileBusy)

/-- R52, R226: an access of another width, or at an offset that is no multiple of 4, is a bus error, has no effect on the
block, and leaves a state that is no answer of a run. That the fault is recorded in the field `hostFault` while the step
goes on is the model's choice, log entry 5 (DESIGN CHOICE). -/
def Obligations.UnadmittedAccessIsABusError : Prop :=
  ∀ (s : State) (width : AccessWidth) (offset : BitVec 6) (es : List HostEvent),
    width ≠ .word ∨ offset.toNat % 4 ≠ 0 →
    s.host = .access (.read width offset) :: es ∨ (∃ v, s.host = .access (.write width offset v) :: es) →
    ∃ t, step s = .next t ∧
      t = { s with host := es, replies := s.replies ++ [.busError], hostFault := true } ∧ ¬ SafeState t

/-- R226: the recorded fault of the host program is never cleared, by reset neither. -/
def Obligations.RecordedHostFaultIsNeverCleared : Prop :=
  ∀ s t : State, step s = .next t → s.hostFault = true → t.hostFault = true

/-- R226 (b), R262: a write to `CMD` or `ARG` that lands while a command is in progress stops the run by name. -/
def Obligations.WriteDuringACommandIsAFault : Prop :=
  ∀ (s : State) (w : Word) (toArg : Bool) (v : Word) (es : List HostEvent),
    s.host = .overrun w toArg v :: es → step s = .fault .writeWhileBusy

/-- R32: the register `ARG`: a host write sets it and nothing else, a read returns it, it is 0 after reset, no command
writes it, and the seven commands without an operand ignore it. -/
def Obligations.ArgumentRegister : Prop :=
  (∀ (s : State) (v : Word) (es : List HostEvent),
    s.host = argWrite v :: es → s.busy = false → step s = .next { s with host := es, arg := v }) ∧
  (∀ s : State, readReg s 0x04#6 = s.arg) ∧
  (∀ c : Config, (State.resetOf c).arg = 0#32) ∧
  (∀ (i : Instr) (s t : State), exec i s = .next t → t.arg = s.arg) ∧
  (∀ (i : Instr) (s t : State) (v : Word),
    i ≠ .setSpeed → i ≠ .setFrequency → i ≠ .setDecayMode → exec i s = .next t →
    exec i { s with arg := v } = .next { t with arg := v })

/-- R53: byte lane k of a register carries its bits 8k+7 : 8k. -/
def Obligations.ByteLanesAreLittleEndian : Prop :=
  ∀ (s : State) (offset : BitVec 6),
    (windowByte s offset).toNat =
      (readReg s (BitVec.ofNat 6 (offset.toNat / 4 * 4))).toNat / 2 ^ (8 * (offset.toNat % 4)) % 2 ^ 8

/-! ### Reset (10_state.md, 70_reset_and_hazards.md) -/

/-- R44: every field after reset, whether the machine starts or the reset input is asserted between commands; reset emits
nothing and leaves what is outside the block as it was. -/
def Obligations.ResetGivesTheResetValues : Prop :=
  (∀ c : Config,
    (State.resetOf c).life = .uninitialized ∧ (State.resetOf c).speed = 0#32 ∧
    (State.resetOf c).freq = c.defaultFreq ∧ (State.resetOf c).decay = c.defaultDecay ∧
    (State.resetOf c).period = 0#16 ∧ (State.resetOf c).div16 = 0#12 ∧ (State.resetOf c).enabled = false ∧
    (State.resetOf c).levelPos = 0#16 ∧ (State.resetOf c).levelNeg = 0#16 ∧ (State.resetOf c).result = .ok ∧
    (State.resetOf c).busy = false ∧ (State.resetOf c).arg = 0#32 ∧ (State.resetOf c).resultReg = 0#32 ∧
    (State.resetOf c).trace = []) ∧
  (∀ (s : State) (es : List HostEvent), s.host = .reset :: es →
    step s = .next
      { s with
        host := es
        life := .uninitialized
        speed := 0#32
        freq := s.cfg.defaultFreq
        decay := s.cfg.defaultDecay
        period := 0#16
        div16 := 0#12
        enabled := false
        levelPos := 0#16
        levelNeg := 0#16
        result := .ok
        busy := false
        arg := 0#32
        resultReg := 0#32 })

/-- R250, U20: a reset while a command is in progress abandons it: the transactions already emitted, any prefix of the
command's, stay emitted, no other follows, and the block's fields are those of reset. -/
def Obligations.ResetDuringACommandAbandonsIt : Prop :=
  ∀ (s d : State) (w : Word) (k : Nat) (es : List HostEvent),
    s.busy = false → step { s with host := cmdWrite w :: es } = .next d →
    step { s with host := .resetDuring w k :: es } = .next
      { d with
        trace := s.trace ++ (newTxns s d).take k
        life := .uninitialized
        speed := 0#32
        freq := s.cfg.defaultFreq
        decay := s.cfg.defaultDecay
        period := 0#16
        div16 := 0#12
        enabled := false
        levelPos := 0#16
        levelNeg := 0#16
        result := .ok
        busy := false
        arg := 0#32
        resultReg := 0#32 }

/-! ### The commands: what each does, whole, with its frame (42_lifecycle.md to 45_queries.md) -/

/-- R140 to R144: INIT. In TornDown only the result code; where the factorizer fails only the result code and the clock
sample; else the whole programming of the sink in the order configure, levels, enable, claims, with the level of speed 0,
and `st.decay` kept. -/
def Obligations.InitCommand : Prop :=
  decode 0x00000001#32 = .command .init ∧
  (∀ s : State, s.life = .tornDown → exec .init s = .next { s with result := .tornDown, busy := false }) ∧
  (∀ s : State, s.life ≠ .tornDown →
    factorize s.cfg.maxPwmPeriod s.cfg.defaultFreq.toNat (sampleClock s).toNat = none →
    exec .init s = .next { afterSample s with result := .infeasibleFrequency, busy := false }) ∧
  (∀ (s : State) (P D : Nat) (zeroLevel : Level), s.life ≠ .tornDown →
    factorize s.cfg.maxPwmPeriod s.cfg.defaultFreq.toNat (sampleClock s).toNat = some (P, D) →
    zeroLevel = (if s.decay = .slow then BitVec.ofNat 16 P else 0#16) →
    exec .init s = .next
      { afterSample s with
        period := BitVec.ofNat 16 P
        div16 := BitVec.ofNat 12 D
        freq := s.cfg.defaultFreq
        speed := 0#32
        enabled := true
        life := .ready
        levelPos := zeroLevel
        levelNeg := zeroLevel
        result := .ok
        busy := false
        trace := s.trace ++
          if s.cfg.sharedSlice then
            [.sinkCfg s.cfg.pinPos (BitVec.ofNat 16 P) (BitVec.ofNat 8 (D / 16)) (BitVec.ofNat 4 (D % 16)),
              .sinkLevel s.cfg.pinPos zeroLevel, .sinkLevel s.cfg.pinNeg zeroLevel,
              .sinkEnable s.cfg.pinPos, .pinClaim s.cfg.pinPos, .pinClaim s.cfg.pinNeg]
          else
            [.sinkCfg s.cfg.pinPos (BitVec.ofNat 16 P) (BitVec.ofNat 8 (D / 16)) (BitVec.ofNat 4 (D % 16)),
              .sinkCfg s.cfg.pinNeg (BitVec.ofNat 16 P) (BitVec.ofNat 8 (D / 16)) (BitVec.ofNat 4 (D % 16)),
              .sinkLevel s.cfg.pinPos zeroLevel, .sinkLevel s.cfg.pinNeg zeroLevel,
              .sinkEnable s.cfg.pinPos, .sinkEnable s.cfg.pinNeg,
              .pinClaim s.cfg.pinPos, .pinClaim s.cfg.pinNeg] })

/-- R146, R148: TEARDOWN. In TornDown only the result code; else both pins are released, from Uninitialized too, and
nothing but the lifecycle state and the result code is written. -/
def Obligations.TeardownCommand : Prop :=
  decode 0x0000000A#32 = .command .teardown ∧
  (∀ s : State, s.life = .tornDown → exec .teardown s = .next { s with result := .tornDown, busy := false }) ∧
  (∀ s : State, s.life ≠ .tornDown →
    exec .teardown s = .next
      { s with
        trace := s.trace ++ [.pinRelease s.cfg.pinPos, .pinRelease s.cfg.pinNeg]
        life := .tornDown
        result := .ok
        busy := false })

/-- R161: SET_SPEED. -/
def Obligations.SetSpeedCommand : Prop :=
  decode 0x00000002#32 = .command .setSpeed ∧
  (∀ s : State, s.life = .tornDown → exec .setSpeed s = .next { s with result := .tornDown, busy := false }) ∧
  (∀ s : State, s.life = .uninitialized →
    exec .setSpeed s = .next { s with result := .notInitialized, busy := false }) ∧
  (∀ (s : State) (speed : Int) (l : Level × Level), s.life = .ready →
    speed = max (-65536) (min 65536 s.arg.toInt) → l = dutyMap speed s.period s.decay →
    exec .setSpeed s = .next
      { s with
        speed := BitVec.ofInt 32 speed
        enabled := true
        levelPos := l.1
        levelNeg := l.2
        trace := s.trace ++ [.sinkLevel s.cfg.pinPos l.1, .sinkLevel s.cfg.pinNeg l.2]
        result := .ok
        busy := false })

/-- R164, R76: SET_DECAY_MODE. An operand of 2 or more is a bad operand; 0 is FastDecay and 1 is SlowDecay; the levels are
the mapped ones while the motor is enabled and (0, 0) while it is not. -/
def Obligations.SetDecayModeCommand : Prop :=
  decode 0x00000004#32 = .command .setDecayMode ∧
  (∀ s : State, s.life = .tornDown → exec .setDecayMode s = .next { s with result := .tornDown, busy := false }) ∧
  (∀ s : State, s.life = .uninitialized →
    exec .setDecayMode s = .next { s with result := .notInitialized, busy := false }) ∧
  (∀ s : State, s.life = .ready → 2 ≤ s.arg.toNat →
    exec .setDecayMode s = .next { s with result := .badOperand, busy := false }) ∧
  (∀ (s : State) (m : Decay) (l : Level × Level), s.life = .ready →
    s.arg.toNat = (match m with | .fast => 0 | .slow => 1) →
    l = (if s.enabled = true then dutyMap s.speed.toInt s.period m else (0#16, 0#16)) →
    exec .setDecayMode s = .next
      { s with
        decay := m
        levelPos := l.1
        levelNeg := l.2
        trace := s.trace ++ [.sinkLevel s.cfg.pinPos l.1, .sinkLevel s.cfg.pinNeg l.2]
        result := .ok
        busy := false })

/-- R166: STOP. In SlowDecay it drives (P, P), in FastDecay (0, 0), enabled or not before; and it has the effect of
SET_SPEED with operand 0 but for `ARG`. -/
def Obligations.StopCommand : Prop :=
  decode 0x00000005#32 = .command .stop ∧
  (∀ s : State, s.life = .tornDown → exec .stop s = .next { s with result := .tornDown, busy := false }) ∧
  (∀ s : State, s.life = .uninitialized →
    exec .stop s = .next { s with result := .notInitialized, busy := false }) ∧
  (∀ (s : State) (l : Level), s.life = .ready → l = (if s.decay = .slow then s.period else 0#16) →
    exec .stop s = .next
      { s with
        speed := 0#32
        enabled := true
        levelPos := l
        levelNeg := l
        trace := s.trace ++ [.sinkLevel s.cfg.pinPos l, .sinkLevel s.cfg.pinNeg l]
        result := .ok
        busy := false }) ∧
  (∀ s t : State, exec .stop s = .next t → exec .setSpeed { s with arg := 0#32 } = .next { t with arg := 0#32 })

/-- R168: DISABLE. -/
def Obligations.DisableCommand : Prop :=
  decode 0x00000006#32 = .command .disable ∧
  (∀ s : State, s.life = .tornDown → exec .disable s = .next { s with result := .tornDown, busy := false }) ∧
  (∀ s : State, s.life = .uninitialized →
    exec .disable s = .next { s with result := .notInitialized, busy := false }) ∧
  (∀ s : State, s.life = .ready →
    exec .disable s = .next
      { s with
        speed := 0#32
        enabled := false
        levelPos := 0#16
        levelNeg := 0#16
        trace := s.trace ++ [.sinkLevel s.cfg.pinPos 0#16, .sinkLevel s.cfg.pinNeg 0#16]
        result := .ok
        busy := false })

/-- R180, R181, R183, R184, R187, R188: SET_FREQUENCY. The factorizer fails: only the result code and the clock sample. It
succeeds: levels, divider, wrap where the period grows, and divider, wrap, levels where it does not; once per slice for the
divider and the wrap; the levels are those of the stored speed under the new period, (0, 0) while the motor is disabled. -/
def Obligations.SetFrequencyCommand : Prop :=
  decode 0x00000003#32 = .command .setFrequency ∧
  (∀ s : State, s.life = .tornDown → exec .setFrequency s = .next { s with result := .tornDown, busy := false }) ∧
  (∀ s : State, s.life = .uninitialized →
    exec .setFrequency s = .next { s with result := .notInitialized, busy := false }) ∧
  (∀ s : State, s.life = .ready →
    factorize s.cfg.maxPwmPeriod s.arg.toNat (sampleClock s).toNat = none →
    exec .setFrequency s = .next { afterSample s with result := .infeasibleFrequency, busy := false }) ∧
  (∀ (s : State) (P D : Nat) (l : Level × Level) (levels divider wrap : List Txn), s.life = .ready →
    factorize s.cfg.maxPwmPeriod s.arg.toNat (sampleClock s).toNat = some (P, D) →
    l = (if s.enabled = true then dutyMap s.speed.toInt (BitVec.ofNat 16 P) s.decay else (0#16, 0#16)) →
    levels = [.sinkLevel s.cfg.pinPos l.1, .sinkLevel s.cfg.pinNeg l.2] →
    divider =
      (if s.cfg.sharedSlice = true then [.sinkDiv s.cfg.pinPos (BitVec.ofNat 8 (D / 16)) (BitVec.ofNat 4 (D % 16))]
      else
        [.sinkDiv s.cfg.pinPos (BitVec.ofNat 8 (D / 16)) (BitVec.ofNat 4 (D % 16)),
          .sinkDiv s.cfg.pinNeg (BitVec.ofNat 8 (D / 16)) (BitVec.ofNat 4 (D % 16))]) →
    wrap =
      (if s.cfg.sharedSlice = true then [.sinkWrap s.cfg.pinPos (BitVec.ofNat 16 (P - 1))]
      else [.sinkWrap s.cfg.pinPos (BitVec.ofNat 16 (P - 1)), .sinkWrap s.cfg.pinNeg (BitVec.ofNat 16 (P - 1))]) →
    exec .setFrequency s = .next
      { afterSample s with
        period := BitVec.ofNat 16 P
        div16 := BitVec.ofNat 12 D
        freq := s.arg
        levelPos := l.1
        levelNeg := l.2
        result := .ok
        busy := false
        trace := s.trace ++ if s.period.toNat < P then levels ++ divider ++ wrap else divider ++ wrap ++ levels })

/-- R200, R202, R204: the three queries write `RESULT` and the result code and nothing else, outside TornDown. -/
def Obligations.QueryCommands : Prop :=
  decode 0x00000007#32 = .command .getSpeed ∧
  decode 0x00000008#32 = .command .getFrequency ∧
  decode 0x00000009#32 = .command .getDecayMode ∧
  (∀ (s : State) (i : Instr), s.life = .tornDown → i = .getSpeed ∨ i = .getFrequency ∨ i = .getDecayMode →
    exec i s = .next { s with result := .tornDown, busy := false }) ∧
  (∀ s : State, s.life ≠ .tornDown →
    exec .getSpeed s = .next { s with resultReg := s.speed, result := .ok, busy := false }) ∧
  (∀ s : State, s.life ≠ .tornDown →
    exec .getFrequency s = .next { s with resultReg := s.freq, result := .ok, busy := false }) ∧
  (∀ s : State, s.life ≠ .tornDown →
    exec .getDecayMode s = .next
      { s with resultReg := (if s.decay = .slow then 1#32 else 0#32), result := .ok, busy := false })

/-! ### All commands (10_state.md, 60_exceptions.md) -/

/-- R221: a command that ends with any code but OK writes the result code and nothing else (`BUSY` is back to 0), and only
an infeasible frequency has used a clock sample; the same of every word the host writes to `CMD`, the illegal ones
included. -/
def Obligations.FailingCommandIsAllOrNothing : Prop :=
  (∀ (i : Instr) (s t : State), exec i s = .next t → t.result ≠ .ok →
    t = { s with result := t.result, busy := false, clockIn := t.clockIn, draws := t.draws } ∧
    (t.result ≠ .infeasibleFrequency → t.clockIn = s.clockIn ∧ t.draws = s.draws)) ∧
  (∀ (s t : State) (w : Word) (es : List HostEvent),
    s.host = cmdWrite w :: es → s.busy = false → step s = .next t → t.result ≠ .ok →
    t = { s with host := es, result := t.result, clockIn := t.clockIn, draws := t.draws } ∧
    (t.result ≠ .infeasibleFrequency → t.clockIn = s.clockIn ∧ t.draws = s.draws))

/-- R222, R223: every command completes, with the first result code that applies in the order TORN_DOWN, NOT_INITIALIZED
(mutators only), BAD_OPERAND, INFEASIBLE_FREQUENCY, and OK where none does; a word that is no command comes before all of
them. -/
def Obligations.ResultCodePriority : Prop :=
  (∀ (i : Instr) (s : State), ∃ t, exec i s = .next t ∧
    t.result =
      if s.life = .tornDown then .tornDown
      else if isMutator i = true ∧ s.life ≠ .ready then .notInitialized
      else if i = .setDecayMode ∧ 2 ≤ s.arg.toNat then .badOperand
      else if i = .init ∧ factorize s.cfg.maxPwmPeriod s.cfg.defaultFreq.toNat (sampleClock s).toNat = none then
        .infeasibleFrequency
      else if i = .setFrequency ∧ factorize s.cfg.maxPwmPeriod s.arg.toNat (sampleClock s).toNat = none then
        .infeasibleFrequency
      else .ok) ∧
  (∀ (i : Instr) (s : State), s.life = .tornDown →
    exec i s = .next { s with result := .tornDown, busy := false }) ∧
  (∀ (s : State) (w : Word) (r : IllegalReason) (es : List HostEvent),
    s.host = cmdWrite w :: es → s.busy = false → decode w = .illegal r →
    ∃ t, step s = .next t ∧ t.result = .illegalCommand)

/-- R21: only INIT and TEARDOWN write the lifecycle state, as the rule says; of all steps only their command words and a
reset change it; and no step but a reset leaves TornDown. -/
def Obligations.LifecycleTransitions : Prop :=
  (∀ (i : Instr) (s t : State), exec i s = .next t → i ≠ .init → i ≠ .teardown → t.life = s.life) ∧
  (∀ s t : State, exec .init s = .next t → s.life ≠ .tornDown →
    t.life = if t.result = .ok then .ready else s.life) ∧
  (∀ s t : State, exec .teardown s = .next t → t.life = .tornDown) ∧
  (∀ s t : State, step s = .next t → t.life ≠ s.life →
    ∃ (e : HostEvent) (es : List HostEvent), s.host = e :: es ∧
      (e = cmdWrite 0x00000001#32 ∨ e = cmdWrite 0x0000000A#32 ∨ isReset e = true)) ∧
  (∀ s t : State, step s = .next t → s.life = .tornDown →
    (∀ (e : HostEvent) (es : List HostEvent), s.host = e :: es → isReset e = false) → t.life = .tornDown)

/-- R26: INIT, SET_SPEED and STOP set `st.enabled`, DISABLE clears it, no other command and no failing command writes it. -/
def Obligations.EnabledHasItsWriters : Prop :=
  ∀ (i : Instr) (s t : State), exec i s = .next t →
    t.enabled =
      if t.result = .ok ∧ (i = .init ∨ i = .setSpeed ∨ i = .stop) then true
      else if t.result = .ok ∧ i = .disable then false
      else s.enabled

/-- R22 to R25, R76: which command writes the speed, the frequency, the decay mode and the timing, and with what value. The
speed becomes 0 by a successful INIT, STOP or DISABLE and the clamped operand by a successful SET_SPEED; the frequency
becomes the default by a successful INIT and the operand by a successful SET_FREQUENCY; the decay mode becomes the mode of
the operand by a successful SET_DECAY_MODE; the timing becomes a pair the factorizer returned, for the frequency then in
force, by a successful INIT or SET_FREQUENCY; every other command, and every command that fails, writes none of them. -/
def Obligations.StoredValuesHaveTheirWriters : Prop :=
  ∀ (i : Instr) (s t : State), exec i s = .next t →
    (t.speed.toInt =
      if t.result = .ok ∧ (i = .init ∨ i = .stop ∨ i = .disable) then 0
      else if t.result = .ok ∧ i = .setSpeed then max (-65536) (min 65536 s.arg.toInt)
      else s.speed.toInt) ∧
    (t.freq =
      if t.result = .ok ∧ i = .init then s.cfg.defaultFreq
      else if t.result = .ok ∧ i = .setFrequency then s.arg
      else s.freq) ∧
    (if t.result = .ok ∧ i = .setDecayMode then
      s.arg = (match t.decay with | .fast => 0#32 | .slow => 1#32)
    else t.decay = s.decay) ∧
    (if t.result = .ok ∧ (i = .init ∨ i = .setFrequency) then
      factorize s.cfg.maxPwmPeriod t.freq.toNat (sampleClock s).toNat = some (t.period.toNat, t.div16.toNat)
    else t.period = s.period ∧ t.div16 = s.div16)

/-- R34: only a query that succeeds writes `RESULT`, which is 0 after reset and which the host cannot write. -/
def Obligations.ResultRegisterHasItsWriters : Prop :=
  (∀ (i : Instr) (s t : State), exec i s = .next t →
    t.resultReg =
      if t.result = .ok ∧ i = .getSpeed then s.speed
      else if t.result = .ok ∧ i = .getFrequency then s.freq
      else if t.result = .ok ∧ i = .getDecayMode then (if s.decay = .slow then 1#32 else 0#32)
      else s.resultReg) ∧
  (∀ c : Config, (State.resetOf c).resultReg = 0#32) ∧
  (∀ s : State, readReg s 0x0C#6 = s.resultReg) ∧
  (∀ (s : State) (v : Word) (es : List HostEvent),
    s.host = .access (.write .word 0x0C#6 v) :: es → step s = .next { s with host := es })

/-- R27: after each command the two shadows are the levels it last emitted to their channels, or unchanged where it
emitted none. -/
def Obligations.LevelShadowsFollowTheTrace : Prop :=
  ∀ (i : Instr) (s t : State), exec i s = .next t →
    t.levelPos.toNat = lastLevel s.cfg.pinPos (newTxns s t) s.levelPos.toNat ∧
    t.levelNeg.toNat = lastLevel s.cfg.pinNeg (newTxns s t) s.levelNeg.toNat

/-- R57, R271: no step removes or reorders a transaction already emitted, and a command emits at most 8. -/
def Obligations.TraceOnlyGrows : Prop :=
  (∀ (i : Instr) (s t : State), exec i s = .next t → ∃ new, t.trace = s.trace ++ new ∧ new.length ≤ 8) ∧
  (∀ s t : State, step s = .next t → s.trace <+: t.trace)

/-- R56: the clock is sampled once by an INIT outside TornDown and by a SET_FREQUENCY in Ready, and by nothing else. How
the samples are held (the environment's list, then the free draws) is the model's own, log entry 3; the statement holds
for every free draw. -/
def Obligations.ClockIsSampledOnlyToFactorize : Prop :=
  ∀ (i : Instr) (s t : State), exec i s = .next t →
    if (i = .init ∧ s.life ≠ .tornDown) ∨ (i = .setFrequency ∧ s.life = .ready) then
      (∀ (c : Word) (cs : List Word), s.clockIn = c :: cs →
        sampleClock s = c ∧ t.clockIn = cs ∧ t.draws = s.draws) ∧
      (s.clockIn = [] → t.clockIn = [] ∧ t.draws = s.draws + 1)
    else t.clockIn = s.clockIn ∧ t.draws = s.draws

/-- R127: while the motor is disabled, a command other than INIT, SET_SPEED and STOP emits no level but 0 and leaves the
motor disabled. -/
def Obligations.DisabledMotorStaysNonDriving : Prop :=
  ∀ (i : Instr) (s t : State), exec i s = .next t → s.enabled = false →
    i ≠ .init → i ≠ .setSpeed → i ≠ .stop →
    t.enabled = false ∧ ∀ (ch : PinId) (l : Level), .sinkLevel ch l ∈ newTxns s t → l = 0#16

/-! ### Invariants and runs -/

/-- The invariant holds after reset, for every configuration that can be built. -/
def Obligations.InvariantHoldsAfterReset : Prop := ∀ c : Config, Inv (State.resetOf c)

/-- R41, R25, R182, R262: every step keeps the invariant, from every state that has it: the speed is clamped; a ready
block has a valid timing and levels within its period, and they are its output levels; an enabled block was initialised; a
block never initialised has no timing, speed or level; no command is in progress between steps. -/
def Obligations.StepKeepsTheInvariant : Prop :=
  ∀ s t : State, Inv s → step s = .next t → Inv t

/-- R41: (a) to (d) hold in every state that a run reaches from reset, for every configuration, every sequence of host and
reset events and every sequence of clock values; and a command that changes the period emits both levels of the new state. -/
def Obligations.ReachableStatesKeepTheirBounds : Prop :=
  (∀ (c : Config) (events : List HostEvent) (clocks : List Word) (n : Nat) (t : State),
    Sys2Proof.core.run n { State.resetOf c with host := events, clockIn := clocks } = .next t →
    (-65536 ≤ t.speed.toInt ∧ t.speed.toInt ≤ 65536) ∧
    (t.life = .ready →
      1 ≤ t.period.toNat ∧ t.period.toNat ≤ t.cfg.maxPwmPeriod ∧ 16 ≤ t.div16.toNat ∧ t.div16.toNat ≤ 4095) ∧
    (t.life = .ready → t.levelPos.toNat ≤ t.period.toNat ∧ t.levelNeg.toNat ≤ t.period.toNat) ∧
    (t.enabled = true → t.life = .ready ∨ t.life = .tornDown)) ∧
  (∀ (i : Instr) (s t : State), exec i s = .next t → t.period ≠ s.period →
    (t.levelPos, t.levelNeg) = outputLevels t ∧
    .sinkLevel s.cfg.pinPos t.levelPos ∈ newTxns s t ∧ .sinkLevel s.cfg.pinNeg t.levelNeg ∈ newTxns s t)

/-- R147: in a run without a reset each pin is released at most once; in TornDown every command ends with TORN_DOWN and
has no effect; only a reset leaves TornDown. -/
def Obligations.PinsAreReleasedAtMostOncePerReset : Prop :=
  (∀ (n : Nat) (s t : State) (pin : PinId), (∀ e ∈ s.host, isReset e = false) →
    Sys2Proof.core.run n s = .next t → (newTxns s t).count (.pinRelease pin) ≤ 1) ∧
  (∀ (i : Instr) (s : State), s.life = .tornDown →
    exec i s = .next { s with result := .tornDown, busy := false }) ∧
  (∀ (n : Nat) (s t : State), s.life = .tornDown → (∀ e ∈ s.host, isReset e = false) →
    Sys2Proof.core.run n s = .next t → t.life = .tornDown ∧ t.trace = s.trace)

/-- R254: where the default frequency is infeasible for every clock value that a run samples, the run does not make a block
ready that is not. The values sampled are those the run has used up of `clockIn`, and then the free draws from the run's
first to its last, none where `clockIn` supplies every sample. How the samples are held is the model's own, log entry 3;
the statement holds for every free draw. -/
def Obligations.InfeasibleDefaultNeverBecomesReady : Prop :=
  ∀ (n : Nat) (s t : State), s.life ≠ .ready → Sys2Proof.core.run n s = .next t →
    (∀ used : List Word, s.clockIn = used ++ t.clockIn →
      ∀ c ∈ used, factorize s.cfg.maxPwmPeriod s.cfg.defaultFreq.toNat c.toNat = none) →
    (∀ k : Nat, s.draws ≤ k → k < t.draws →
      factorize s.cfg.maxPwmPeriod s.cfg.defaultFreq.toNat (Config.clockDraw k).toNat = none) →
    t.life ≠ .ready

/-! ### SET_FREQUENCY is glitch-free for a pinned channel (44_set_frequency.md) -/

/-- R185: in an enabled SlowDecay state, a channel whose level is the old period before SET_FREQUENCY and the new period
after it is never below full scale in between: at every prefix of the command's trace the last level emitted to the channel
is at least the last wrap emitted to its slice plus 1. The invariant rules out a ready state without a period. -/
def Obligations.PinnedChannelIsGlitchFree : Prop :=
  ∀ (s t : State) (ch : PinId) (k : Nat),
    Inv s → s.life = .ready → s.enabled = true → s.decay = .slow → exec .setFrequency s = .next t →
    (ch = s.cfg.pinPos ∧ s.levelPos = s.period ∧ t.levelPos = t.period) ∨
      (ch = s.cfg.pinNeg ∧ s.levelNeg = s.period ∧ t.levelNeg = t.period) →
    lastWrap (sliceChannel s.cfg ch) ((newTxns s t).take k) (s.period.toNat - 1) + 1
      ≤ lastLevel ch ((newTxns s t).take k) s.period.toNat

/-- R186: the order gives no such guarantee in FastDecay: growing from 5000 to 62500 at speed 0.5, after the two level
transactions the pos channel's level is 31250 while its slice's wrap is still 4999. -/
def Obligations.UnpinnedChannelHasATransient : Prop :=
  ∃ s t : State, Inv s ∧ s.life = .ready ∧ s.enabled = true ∧ s.decay = .fast ∧
    s.period.toNat = 5000 ∧ s.levelPos.toNat = 2500 ∧
    exec .setFrequency s = .next t ∧ t.period.toNat = 62500 ∧ t.levelPos.toNat = 31250 ∧
    lastLevel s.cfg.pinPos ((newTxns s t).take 2) 2500 = 31250 ∧
    lastWrap (sliceChannel s.cfg s.cfg.pinPos) ((newTxns s t).take 2) 4999 = 4999

/-! ### Operands (30_encoding.md, 43_drive.md) -/

/-- R160: the clamp, for every word, and the rule's two examples. -/
def Obligations.SpeedIsClamped : Prop :=
  (∀ a : Word, clampSpeed a = max (-65536) (min 65536 a.toInt) ∧ (clampWord a).toInt = clampSpeed a) ∧
  clampWord 0x00050000#32 = clampWord 0x00010000#32 ∧ clampWord 0xFFFB0000#32 = clampWord 0xFFFF0000#32

/-- R78, R79: the two parts of a divider make it up, a valid divider has an integer part in 1..255, and the wrap of a valid
period is the period less one. -/
def Obligations.DividerSplitAndWrap : Prop :=
  (∀ d : Div16, (divInt d).toNat * 16 + (divFrac d).toNat = d.toNat ∧
    (16 ≤ d.toNat → 1 ≤ (divInt d).toNat ∧ (divInt d).toNat ≤ 255)) ∧
  (∀ p : Level, 1 ≤ p.toNat → (wrapOf p).toNat = p.toNat - 1 ∧ (wrapOf p).toNat ≤ 65534)

/-! ### The factorizer (40_frequency_factorizer.md) -/

/-- R107: the ranges of every result, and that a period is a product of 2, 3 and 5. -/
def Obligations.FactorizerResultRanges : Prop :=
  ∀ maxP f c P D : Nat, 1 ≤ maxP → maxP ≤ 65535 → factorize maxP f c = some (P, D) →
    1 ≤ P ∧ P ≤ maxP ∧ 16 ≤ D ∧ D ≤ 4095 ∧ 1 ≤ D / 16 ∧ D / 16 ≤ 255 ∧ P < 2 ^ 16 ∧ D < 2 ^ 12 ∧
    ∃ a b e : Nat, P = 2 ^ a * 3 ^ b * 5 ^ e

/-- R110: for every result with starting divisor d₀, 0 ≤ d₀ − P·D < P, so its relative size is below 1/D and that at most
1/16; and the starting divisor is within 1/2 of 256·C/F. -/
def Obligations.FactorizerAccuracy : Prop :=
  ∀ maxP f c P D d0 : Nat, factorize maxP f c = some (P, D) → d0 = (512 * c + f) / (2 * f) →
    P * D ≤ d0 ∧ d0 - P * D < P ∧ (d0 - P * D) * D < d0 ∧ 16 ≤ D ∧
    2 * f * d0 ≤ 512 * c + f ∧ 512 * c ≤ 2 * f * d0 + f

/-- R105: each pass multiplies the period by at least 2, the loop makes at most floor(log2(MAX_PWM_PERIOD)) passes, 15 for
the largest bound, and stops only when no factor can be extracted. -/
def Obligations.FactorizerLoopTerminates : Prop :=
  (∀ maxP d p k : Nat, nextFactor maxP d p = some k → 2 ≤ k) ∧
  (∀ maxP n d : Nat, 1 ≤ maxP → (factorSteps maxP n d 1).length ≤ Nat.log2 maxP) ∧
  Nat.log2 65535 = 15 ∧
  (∀ maxP f c : Nat, 1 ≤ maxP → maxP ≤ 65535 →
    nextFactor maxP (extraction maxP f c).1 (extraction maxP f c).2 = none)

/-- R102, R103, R106, R111: the factorizer fails exactly when the target is below 1 Hz, above half the clock, or leaves a
residual of 4096 or more; inside the range the starting divisor is at least 32 and no residual is below 16. -/
def Obligations.FactorizerFailureSet : Prop :=
  (∀ maxP f c : Nat, factorize maxP f c = none ↔ f < 16 ∨ 8 * c < f ∨ 4096 ≤ (extraction maxP f c).1) ∧
  (∀ maxP f c : Nat, 16 ≤ f → f ≤ 8 * c → 32 ≤ startDivisor f c ∧ 16 ≤ (extraction maxP f c).1)

/-- R112: the worked example, with its starting divisor and its steps. -/
def Obligations.FactorizerWorkedExample : Prop :=
  startDivisor 400000 125000000 = 80000 ∧
  factorSteps 65535 15 80000 1 = [5, 5, 5, 5, 2, 2, 2] ∧
  factorize 65535 400000 125000000 = some (5000, 16)

/-- R101: the intermediate values fit the widths the rule gives, after any number `n` of passes, and a realisation in those widths computes exactly the
unbounded function. -/
def Obligations.FactorizerRealisationIsExact : Prop :=
  (∀ f c : Word, 8 * c.toNat < 2 ^ 35 ∧ 512 * c.toNat + f.toNat < 2 ^ 42 ∧
    (16 ≤ f.toNat → startDivisor f.toNat c.toNat < 2 ^ 37)) ∧
  (∀ maxP n d : Nat, 1 ≤ maxP → (extract maxP n d 1).1 ≤ d ∧ (extract maxP n d 1).2 ≤ maxP) ∧
  (∀ p : Level, p.toNat * 5 < 2 ^ 19 ∧ p.toNat * 3 < 2 ^ 19 ∧ p.toNat * 2 < 2 ^ 19) ∧
  (∀ (maxP : Level) (f c : Word), factorizeW maxP f c = factorizeWord maxP.toNat f c)

/-! ### The duty mapper (41_duty_mapper.md) -/

/-- R121, R122, R123: the signed duty of a clamped speed is within the period, and both levels are, as numbers, what the
rules give. -/
def Obligations.DutyMapperFormulas : Prop :=
  ∀ (speed sd : Int) (period : Level), -65536 ≤ speed → speed ≤ 65536 →
    sd = speed.sign * (((speed.natAbs * period.toNat + 32768) / 65536 : Nat) : Int) →
    -(period.toNat : Int) ≤ sd ∧ sd ≤ period.toNat ∧
    (0 ≤ sd →
      (dutyMap speed period .slow).1 = period ∧
      ((dutyMap speed period .slow).2.toNat : Int) = period.toNat - sd ∧
      ((dutyMap speed period .fast).1.toNat : Int) = sd ∧
      (dutyMap speed period .fast).2 = 0#16) ∧
    (sd < 0 →
      ((dutyMap speed period .slow).1.toNat : Int) = period.toNat + sd ∧
      (dutyMap speed period .slow).2 = period ∧
      (dutyMap speed period .fast).1 = 0#16 ∧
      ((dutyMap speed period .fast).2.toNat : Int) = -sd)

/-- R124, R125, R126, R129: what holds of the two levels together in each decay mode, at zero and at every clamped
speed. -/
def Obligations.DutyMapperInvariants : Prop :=
  ∀ (speed sd : Int) (period : Level) (slow fast : Level × Level), -65536 ≤ speed → speed ≤ 65536 →
    sd = speed.sign * (((speed.natAbs * period.toNat + 32768) / 65536 : Nat) : Int) →
    slow = dutyMap speed period .slow → fast = dutyMap speed period .fast →
    max slow.1.toNat slow.2.toNat = period.toNat ∧
    min slow.1.toNat slow.2.toNat = period.toNat - sd.natAbs ∧
    (sd ≠ 0 → ((slow.1 = period ∧ slow.2 ≠ period) ∨ (slow.1 ≠ period ∧ slow.2 = period))) ∧
    min fast.1.toNat fast.2.toNat = 0 ∧
    max fast.1.toNat fast.2.toNat = sd.natAbs ∧
    fast.1.toNat ≤ period.toNat ∧ fast.2.toNat ≤ period.toNat ∧
    (sd = 0 → slow = (period, period) ∧ fast = (0#16, 0#16)) ∧
    (speed.natAbs * period.toNat < 32768 → sd = 0)

/-- R130: negating the speed swaps the two levels, in both modes. -/
def Obligations.DutyMapperSymmetry : Prop :=
  ∀ (speed : Int) (period : Level) (m : Decay), -65536 ≤ speed → speed ≤ 65536 →
    dutyMap (-speed) period m = ((dutyMap speed period m).2, (dutyMap speed period m).1)

/-! ### The assembler (30_encoding.md) -/

/-- R87: a literal's word is its value times the format's scale, rounded to nearest with ties away from zero; a literal
whose word does not fit in 32 bits, or a negative frequency, is an error; SLOW is 1, FAST is 0, a hex word is used
unchanged. -/
def Obligations.AssemblerConvertsLiterals : Prop :=
  (∀ (d : Decimal) (r : Nat), r = (2 * (d.mantissa * 65536) + 10 ^ d.scale) / (2 * 10 ^ d.scale) →
    (d.negative = false → r < 2 ^ 31 → ∃ w : Word, encSpeed d = some w ∧ w.toInt = r) ∧
    (d.negative = false → 2 ^ 31 ≤ r → encSpeed d = none) ∧
    (d.negative = true → r ≤ 2 ^ 31 → ∃ w : Word, encSpeed d = some w ∧ w.toInt = -(r : Int)) ∧
    (d.negative = true → 2 ^ 31 < r → encSpeed d = none)) ∧
  (∀ (d : Decimal) (r : Nat), r = (2 * (d.mantissa * 16) + 10 ^ d.scale) / (2 * 10 ^ d.scale) →
    (d.negative = false ∨ r = 0 → r < 2 ^ 32 → ∃ w : Word, encFreq d = some w ∧ w.toNat = r) ∧
    (2 ^ 32 ≤ r → encFreq d = none) ∧
    (d.negative = true → r ≠ 0 → encFreq d = none)) ∧
  assemble ⟨.setDecayMode, some .slow⟩ = some ⟨.setDecayMode, some 0x00000001#32⟩ ∧
  assemble ⟨.setDecayMode, some .fast⟩ = some ⟨.setDecayMode, some 0x00000000#32⟩ ∧
  (∀ v : Nat, v < 2 ^ 32 → ∃ w : Word, encHex v = some w ∧ w.toNat = v) ∧
  (∀ v : Nat, 2 ^ 32 ≤ v → encHex v = none)

/-- R88: the accesses of an assembled line, at any base address, set `ARG` where the line has an operand, run the line's
command, and poll a `STATUS` whose `BUSY` is 0. -/
def Obligations.AssembledLineRunsItsCommand : Prop :=
  ∀ (base : Nat) (a : Assembled) (s t : State) (rest : List HostEvent), s.busy = false →
    exec a.instr
      { s with arg := a.argWord.getD s.arg, host := statusRead :: rest, busy := true } = .next t →
    Sys2Proof.core.run (lineEvents base a).length { s with host := lineEvents base a ++ rest } =
      .next { t with host := rest, replies := t.replies ++ [.data (readReg t 0x08#6)] } ∧
    (readReg t 0x08#6).getLsbD 0 = false
end

