-- ==== Sys2Proof/Laws/State.lean ====
section
/-! SUPPORT. One lemma per field per named update of the state (finish, afterSample, emit, emitAll, initState,
frequencyState, resetBlock, busError), so that later proofs unfold no record update. -/

namespace Sys2Proof.Machine

open Sys2Proof


/-! ### finish -/

@[simp] theorem finish_cfg (r : ResultCode) (s : State) : (finish r s).cfg = s.cfg := rfl
@[simp] theorem finish_life (r : ResultCode) (s : State) : (finish r s).life = s.life := rfl
@[simp] theorem finish_speed (r : ResultCode) (s : State) : (finish r s).speed = s.speed := rfl
@[simp] theorem finish_freq (r : ResultCode) (s : State) : (finish r s).freq = s.freq := rfl
@[simp] theorem finish_decay (r : ResultCode) (s : State) : (finish r s).decay = s.decay := rfl
@[simp] theorem finish_period (r : ResultCode) (s : State) : (finish r s).period = s.period := rfl
@[simp] theorem finish_div16 (r : ResultCode) (s : State) : (finish r s).div16 = s.div16 := rfl
@[simp] theorem finish_enabled (r : ResultCode) (s : State) : (finish r s).enabled = s.enabled := rfl
@[simp] theorem finish_levelPos (r : ResultCode) (s : State) : (finish r s).levelPos = s.levelPos := rfl
@[simp] theorem finish_levelNeg (r : ResultCode) (s : State) : (finish r s).levelNeg = s.levelNeg := rfl
@[simp] theorem finish_result (r : ResultCode) (s : State) : (finish r s).result = r := rfl
@[simp] theorem finish_busy (r : ResultCode) (s : State) : (finish r s).busy = false := rfl
@[simp] theorem finish_arg (r : ResultCode) (s : State) : (finish r s).arg = s.arg := rfl
@[simp] theorem finish_resultReg (r : ResultCode) (s : State) : (finish r s).resultReg = s.resultReg := rfl
@[simp] theorem finish_trace (r : ResultCode) (s : State) : (finish r s).trace = s.trace := rfl
@[simp] theorem finish_host (r : ResultCode) (s : State) : (finish r s).host = s.host := rfl
@[simp] theorem finish_replies (r : ResultCode) (s : State) : (finish r s).replies = s.replies := rfl
@[simp] theorem finish_clockIn (r : ResultCode) (s : State) : (finish r s).clockIn = s.clockIn := rfl
@[simp] theorem finish_draws (r : ResultCode) (s : State) : (finish r s).draws = s.draws := rfl
@[simp] theorem finish_hostFault (r : ResultCode) (s : State) : (finish r s).hostFault = s.hostFault := rfl

/-! ### afterSample -/

@[simp] theorem afterSample_cfg (s : State) : (afterSample s).cfg = s.cfg := by
  unfold afterSample; split <;> rfl
@[simp] theorem afterSample_life (s : State) : (afterSample s).life = s.life := by
  unfold afterSample; split <;> rfl
@[simp] theorem afterSample_speed (s : State) : (afterSample s).speed = s.speed := by
  unfold afterSample; split <;> rfl
@[simp] theorem afterSample_freq (s : State) : (afterSample s).freq = s.freq := by
  unfold afterSample; split <;> rfl
@[simp] theorem afterSample_decay (s : State) : (afterSample s).decay = s.decay := by
  unfold afterSample; split <;> rfl
@[simp] theorem afterSample_period (s : State) : (afterSample s).period = s.period := by
  unfold afterSample; split <;> rfl
@[simp] theorem afterSample_div16 (s : State) : (afterSample s).div16 = s.div16 := by
  unfold afterSample; split <;> rfl
@[simp] theorem afterSample_enabled (s : State) : (afterSample s).enabled = s.enabled := by
  unfold afterSample; split <;> rfl
@[simp] theorem afterSample_levelPos (s : State) : (afterSample s).levelPos = s.levelPos := by
  unfold afterSample; split <;> rfl
@[simp] theorem afterSample_levelNeg (s : State) : (afterSample s).levelNeg = s.levelNeg := by
  unfold afterSample; split <;> rfl
@[simp] theorem afterSample_result (s : State) : (afterSample s).result = s.result := by
  unfold afterSample; split <;> rfl
@[simp] theorem afterSample_busy (s : State) : (afterSample s).busy = s.busy := by
  unfold afterSample; split <;> rfl
@[simp] theorem afterSample_arg (s : State) : (afterSample s).arg = s.arg := by
  unfold afterSample; split <;> rfl
@[simp] theorem afterSample_resultReg (s : State) : (afterSample s).resultReg = s.resultReg := by
  unfold afterSample; split <;> rfl
@[simp] theorem afterSample_trace (s : State) : (afterSample s).trace = s.trace := by
  unfold afterSample; split <;> rfl
@[simp] theorem afterSample_host (s : State) : (afterSample s).host = s.host := by
  unfold afterSample; split <;> rfl
@[simp] theorem afterSample_replies (s : State) : (afterSample s).replies = s.replies := by
  unfold afterSample; split <;> rfl
@[simp] theorem afterSample_hostFault (s : State) : (afterSample s).hostFault = s.hostFault := by
  unfold afterSample; split <;> rfl

/-! ### emit -/

@[simp] theorem emit_cfg (s : State) (t : Txn) : (emit s t).cfg = s.cfg := rfl
@[simp] theorem emit_life (s : State) (t : Txn) : (emit s t).life = s.life := rfl
@[simp] theorem emit_speed (s : State) (t : Txn) : (emit s t).speed = s.speed := rfl
@[simp] theorem emit_freq (s : State) (t : Txn) : (emit s t).freq = s.freq := rfl
@[simp] theorem emit_decay (s : State) (t : Txn) : (emit s t).decay = s.decay := rfl
@[simp] theorem emit_period (s : State) (t : Txn) : (emit s t).period = s.period := rfl
@[simp] theorem emit_div16 (s : State) (t : Txn) : (emit s t).div16 = s.div16 := rfl
@[simp] theorem emit_enabled (s : State) (t : Txn) : (emit s t).enabled = s.enabled := rfl
@[simp] theorem emit_levelPos (s : State) (t : Txn) : (emit s t).levelPos = shadowAfter s.cfg.pinPos t s.levelPos := rfl
@[simp] theorem emit_levelNeg (s : State) (t : Txn) : (emit s t).levelNeg = shadowAfter s.cfg.pinNeg t s.levelNeg := rfl
@[simp] theorem emit_result (s : State) (t : Txn) : (emit s t).result = s.result := rfl
@[simp] theorem emit_busy (s : State) (t : Txn) : (emit s t).busy = s.busy := rfl
@[simp] theorem emit_arg (s : State) (t : Txn) : (emit s t).arg = s.arg := rfl
@[simp] theorem emit_resultReg (s : State) (t : Txn) : (emit s t).resultReg = s.resultReg := rfl
@[simp] theorem emit_trace (s : State) (t : Txn) : (emit s t).trace = s.trace ++ [t] := rfl
@[simp] theorem emit_host (s : State) (t : Txn) : (emit s t).host = s.host := rfl
@[simp] theorem emit_replies (s : State) (t : Txn) : (emit s t).replies = s.replies := rfl
@[simp] theorem emit_clockIn (s : State) (t : Txn) : (emit s t).clockIn = s.clockIn := rfl
@[simp] theorem emit_draws (s : State) (t : Txn) : (emit s t).draws = s.draws := rfl
@[simp] theorem emit_hostFault (s : State) (t : Txn) : (emit s t).hostFault = s.hostFault := rfl

/-! ### emitAll -/

@[simp] theorem emitAll_cfg (ts : List Txn) (s : State) : (emitAll ts s).cfg = s.cfg := by
  induction ts generalizing s with
  | nil => rfl
  | cons t ts ih => exact (ih (emit s t)).trans rfl

@[simp] theorem emitAll_life (ts : List Txn) (s : State) : (emitAll ts s).life = s.life := by
  induction ts generalizing s with
  | nil => rfl
  | cons t ts ih => exact (ih (emit s t)).trans rfl

@[simp] theorem emitAll_speed (ts : List Txn) (s : State) : (emitAll ts s).speed = s.speed := by
  induction ts generalizing s with
  | nil => rfl
  | cons t ts ih => exact (ih (emit s t)).trans rfl

@[simp] theorem emitAll_freq (ts : List Txn) (s : State) : (emitAll ts s).freq = s.freq := by
  induction ts generalizing s with
  | nil => rfl
  | cons t ts ih => exact (ih (emit s t)).trans rfl

@[simp] theorem emitAll_decay (ts : List Txn) (s : State) : (emitAll ts s).decay = s.decay := by
  induction ts generalizing s with
  | nil => rfl
  | cons t ts ih => exact (ih (emit s t)).trans rfl

@[simp] theorem emitAll_period (ts : List Txn) (s : State) : (emitAll ts s).period = s.period := by
  induction ts generalizing s with
  | nil => rfl
  | cons t ts ih => exact (ih (emit s t)).trans rfl

@[simp] theorem emitAll_div16 (ts : List Txn) (s : State) : (emitAll ts s).div16 = s.div16 := by
  induction ts generalizing s with
  | nil => rfl
  | cons t ts ih => exact (ih (emit s t)).trans rfl

@[simp] theorem emitAll_enabled (ts : List Txn) (s : State) : (emitAll ts s).enabled = s.enabled := by
  induction ts generalizing s with
  | nil => rfl
  | cons t ts ih => exact (ih (emit s t)).trans rfl

@[simp] theorem emitAll_result (ts : List Txn) (s : State) : (emitAll ts s).result = s.result := by
  induction ts generalizing s with
  | nil => rfl
  | cons t ts ih => exact (ih (emit s t)).trans rfl

@[simp] theorem emitAll_busy (ts : List Txn) (s : State) : (emitAll ts s).busy = s.busy := by
  induction ts generalizing s with
  | nil => rfl
  | cons t ts ih => exact (ih (emit s t)).trans rfl

@[simp] theorem emitAll_arg (ts : List Txn) (s : State) : (emitAll ts s).arg = s.arg := by
  induction ts generalizing s with
  | nil => rfl
  | cons t ts ih => exact (ih (emit s t)).trans rfl

@[simp] theorem emitAll_resultReg (ts : List Txn) (s : State) : (emitAll ts s).resultReg = s.resultReg := by
  induction ts generalizing s with
  | nil => rfl
  | cons t ts ih => exact (ih (emit s t)).trans rfl

@[simp] theorem emitAll_host (ts : List Txn) (s : State) : (emitAll ts s).host = s.host := by
  induction ts generalizing s with
  | nil => rfl
  | cons t ts ih => exact (ih (emit s t)).trans rfl

@[simp] theorem emitAll_replies (ts : List Txn) (s : State) : (emitAll ts s).replies = s.replies := by
  induction ts generalizing s with
  | nil => rfl
  | cons t ts ih => exact (ih (emit s t)).trans rfl

@[simp] theorem emitAll_clockIn (ts : List Txn) (s : State) : (emitAll ts s).clockIn = s.clockIn := by
  induction ts generalizing s with
  | nil => rfl
  | cons t ts ih => exact (ih (emit s t)).trans rfl

@[simp] theorem emitAll_draws (ts : List Txn) (s : State) : (emitAll ts s).draws = s.draws := by
  induction ts generalizing s with
  | nil => rfl
  | cons t ts ih => exact (ih (emit s t)).trans rfl

@[simp] theorem emitAll_hostFault (ts : List Txn) (s : State) : (emitAll ts s).hostFault = s.hostFault := by
  induction ts generalizing s with
  | nil => rfl
  | cons t ts ih => exact (ih (emit s t)).trans rfl

@[simp] theorem emitAll_trace (ts : List Txn) (s : State) : (emitAll ts s).trace = s.trace ++ ts := by
  induction ts generalizing s with
  | nil => simp [emitAll]
  | cons t ts ih => exact (ih (emit s t)).trans (by simp)

theorem emitAll_levelPos (ts : List Txn) (s : State) :
    (emitAll ts s).levelPos = ts.foldl (fun v t => shadowAfter s.cfg.pinPos t v) s.levelPos := by
  induction ts generalizing s with
  | nil => rfl
  | cons t ts ih => exact ih (emit s t)

theorem emitAll_levelNeg (ts : List Txn) (s : State) :
    (emitAll ts s).levelNeg = ts.foldl (fun v t => shadowAfter s.cfg.pinNeg t v) s.levelNeg := by
  induction ts generalizing s with
  | nil => rfl
  | cons t ts ih => exact ih (emit s t)


/-! ### initState -/

@[simp] theorem initState_cfg (p : Level) (d : Div16) (s : State) : (initState p d s).cfg = s.cfg := rfl
@[simp] theorem initState_life (p : Level) (d : Div16) (s : State) : (initState p d s).life = .ready := rfl
@[simp] theorem initState_speed (p : Level) (d : Div16) (s : State) : (initState p d s).speed = 0 := rfl
@[simp] theorem initState_freq (p : Level) (d : Div16) (s : State) : (initState p d s).freq = s.cfg.defaultFreq := rfl
@[simp] theorem initState_decay (p : Level) (d : Div16) (s : State) : (initState p d s).decay = s.decay := rfl
@[simp] theorem initState_period (p : Level) (d : Div16) (s : State) : (initState p d s).period = p := rfl
@[simp] theorem initState_div16 (p : Level) (d : Div16) (s : State) : (initState p d s).div16 = d := rfl
@[simp] theorem initState_enabled (p : Level) (d : Div16) (s : State) : (initState p d s).enabled = true := rfl
@[simp] theorem initState_levelPos (p : Level) (d : Div16) (s : State) : (initState p d s).levelPos = s.levelPos := rfl
@[simp] theorem initState_levelNeg (p : Level) (d : Div16) (s : State) : (initState p d s).levelNeg = s.levelNeg := rfl
@[simp] theorem initState_result (p : Level) (d : Div16) (s : State) : (initState p d s).result = s.result := rfl
@[simp] theorem initState_busy (p : Level) (d : Div16) (s : State) : (initState p d s).busy = s.busy := rfl
@[simp] theorem initState_arg (p : Level) (d : Div16) (s : State) : (initState p d s).arg = s.arg := rfl
@[simp] theorem initState_resultReg (p : Level) (d : Div16) (s : State) : (initState p d s).resultReg = s.resultReg := rfl
@[simp] theorem initState_trace (p : Level) (d : Div16) (s : State) : (initState p d s).trace = s.trace := rfl
@[simp] theorem initState_host (p : Level) (d : Div16) (s : State) : (initState p d s).host = s.host := rfl
@[simp] theorem initState_replies (p : Level) (d : Div16) (s : State) : (initState p d s).replies = s.replies := rfl
@[simp] theorem initState_clockIn (p : Level) (d : Div16) (s : State) : (initState p d s).clockIn = s.clockIn := rfl
@[simp] theorem initState_draws (p : Level) (d : Div16) (s : State) : (initState p d s).draws = s.draws := rfl
@[simp] theorem initState_hostFault (p : Level) (d : Div16) (s : State) : (initState p d s).hostFault = s.hostFault := rfl

/-! ### frequencyState -/

@[simp] theorem frequencyState_cfg (p : Level) (d : Div16) (s : State) : (frequencyState p d s).cfg = s.cfg := rfl
@[simp] theorem frequencyState_life (p : Level) (d : Div16) (s : State) : (frequencyState p d s).life = s.life := rfl
@[simp] theorem frequencyState_speed (p : Level) (d : Div16) (s : State) : (frequencyState p d s).speed = s.speed := rfl
@[simp] theorem frequencyState_freq (p : Level) (d : Div16) (s : State) : (frequencyState p d s).freq = s.arg := rfl
@[simp] theorem frequencyState_decay (p : Level) (d : Div16) (s : State) : (frequencyState p d s).decay = s.decay := rfl
@[simp] theorem frequencyState_period (p : Level) (d : Div16) (s : State) : (frequencyState p d s).period = p := rfl
@[simp] theorem frequencyState_div16 (p : Level) (d : Div16) (s : State) : (frequencyState p d s).div16 = d := rfl
@[simp] theorem frequencyState_enabled (p : Level) (d : Div16) (s : State) : (frequencyState p d s).enabled = s.enabled := rfl
@[simp] theorem frequencyState_levelPos (p : Level) (d : Div16) (s : State) : (frequencyState p d s).levelPos = s.levelPos := rfl
@[simp] theorem frequencyState_levelNeg (p : Level) (d : Div16) (s : State) : (frequencyState p d s).levelNeg = s.levelNeg := rfl
@[simp] theorem frequencyState_result (p : Level) (d : Div16) (s : State) : (frequencyState p d s).result = s.result := rfl
@[simp] theorem frequencyState_busy (p : Level) (d : Div16) (s : State) : (frequencyState p d s).busy = s.busy := rfl
@[simp] theorem frequencyState_arg (p : Level) (d : Div16) (s : State) : (frequencyState p d s).arg = s.arg := rfl
@[simp] theorem frequencyState_resultReg (p : Level) (d : Div16) (s : State) : (frequencyState p d s).resultReg = s.resultReg := rfl
@[simp] theorem frequencyState_trace (p : Level) (d : Div16) (s : State) : (frequencyState p d s).trace = s.trace := rfl
@[simp] theorem frequencyState_host (p : Level) (d : Div16) (s : State) : (frequencyState p d s).host = s.host := rfl
@[simp] theorem frequencyState_replies (p : Level) (d : Div16) (s : State) : (frequencyState p d s).replies = s.replies := rfl
@[simp] theorem frequencyState_clockIn (p : Level) (d : Div16) (s : State) : (frequencyState p d s).clockIn = s.clockIn := rfl
@[simp] theorem frequencyState_draws (p : Level) (d : Div16) (s : State) : (frequencyState p d s).draws = s.draws := rfl
@[simp] theorem frequencyState_hostFault (p : Level) (d : Div16) (s : State) : (frequencyState p d s).hostFault = s.hostFault := rfl

/-! ### resetBlock -/

@[simp] theorem resetBlock_cfg (s : State) : (resetBlock s).cfg = s.cfg := rfl
@[simp] theorem resetBlock_life (s : State) : (resetBlock s).life = .uninitialized := rfl
@[simp] theorem resetBlock_speed (s : State) : (resetBlock s).speed = 0 := rfl
@[simp] theorem resetBlock_freq (s : State) : (resetBlock s).freq = s.cfg.defaultFreq := rfl
@[simp] theorem resetBlock_decay (s : State) : (resetBlock s).decay = s.cfg.defaultDecay := rfl
@[simp] theorem resetBlock_period (s : State) : (resetBlock s).period = 0 := rfl
@[simp] theorem resetBlock_div16 (s : State) : (resetBlock s).div16 = 0 := rfl
@[simp] theorem resetBlock_enabled (s : State) : (resetBlock s).enabled = false := rfl
@[simp] theorem resetBlock_levelPos (s : State) : (resetBlock s).levelPos = 0 := rfl
@[simp] theorem resetBlock_levelNeg (s : State) : (resetBlock s).levelNeg = 0 := rfl
@[simp] theorem resetBlock_result (s : State) : (resetBlock s).result = .ok := rfl
@[simp] theorem resetBlock_busy (s : State) : (resetBlock s).busy = false := rfl
@[simp] theorem resetBlock_arg (s : State) : (resetBlock s).arg = 0 := rfl
@[simp] theorem resetBlock_resultReg (s : State) : (resetBlock s).resultReg = 0 := rfl
@[simp] theorem resetBlock_trace (s : State) : (resetBlock s).trace = s.trace := rfl
@[simp] theorem resetBlock_host (s : State) : (resetBlock s).host = s.host := rfl
@[simp] theorem resetBlock_replies (s : State) : (resetBlock s).replies = s.replies := rfl
@[simp] theorem resetBlock_clockIn (s : State) : (resetBlock s).clockIn = s.clockIn := rfl
@[simp] theorem resetBlock_draws (s : State) : (resetBlock s).draws = s.draws := rfl
@[simp] theorem resetBlock_hostFault (s : State) : (resetBlock s).hostFault = s.hostFault := rfl

/-! ### busError -/

@[simp] theorem busError_cfg (s : State) : (busError s).cfg = s.cfg := rfl
@[simp] theorem busError_life (s : State) : (busError s).life = s.life := rfl
@[simp] theorem busError_speed (s : State) : (busError s).speed = s.speed := rfl
@[simp] theorem busError_freq (s : State) : (busError s).freq = s.freq := rfl
@[simp] theorem busError_decay (s : State) : (busError s).decay = s.decay := rfl
@[simp] theorem busError_period (s : State) : (busError s).period = s.period := rfl
@[simp] theorem busError_div16 (s : State) : (busError s).div16 = s.div16 := rfl
@[simp] theorem busError_enabled (s : State) : (busError s).enabled = s.enabled := rfl
@[simp] theorem busError_levelPos (s : State) : (busError s).levelPos = s.levelPos := rfl
@[simp] theorem busError_levelNeg (s : State) : (busError s).levelNeg = s.levelNeg := rfl
@[simp] theorem busError_result (s : State) : (busError s).result = s.result := rfl
@[simp] theorem busError_busy (s : State) : (busError s).busy = s.busy := rfl
@[simp] theorem busError_arg (s : State) : (busError s).arg = s.arg := rfl
@[simp] theorem busError_resultReg (s : State) : (busError s).resultReg = s.resultReg := rfl
@[simp] theorem busError_trace (s : State) : (busError s).trace = s.trace := rfl
@[simp] theorem busError_host (s : State) : (busError s).host = s.host := rfl
@[simp] theorem busError_replies (s : State) : (busError s).replies = s.replies ++ [.busError] := rfl
@[simp] theorem busError_clockIn (s : State) : (busError s).clockIn = s.clockIn := rfl
@[simp] theorem busError_draws (s : State) : (busError s).draws = s.draws := rfl
@[simp] theorem busError_hostFault (s : State) : (busError s).hostFault = true := rfl

end Sys2Proof.Machine
end

