-- ==== Sys2Proof/Laws/Ops.lean ====
section
/-! SUPPORT. What each shared operation does, said once: the configuration's two checks as facts, the clock sample, the
emission of each transaction group, the end of a level-writing command, and the two lifecycle checks. -/

namespace Sys2Proof.Machine

open Sys2Proof

/-! ### The configuration (R8, R227) -/

theorem config_pins_ne (c : Config) : c.pinPos ≠ c.pinNeg := by
  have h := c.valid
  simp only [Params.wf, Params.pinsDiffer, Bool.and_eq_true, decide_eq_true_eq] at h
  exact h.1

theorem config_maxPeriod (c : Config) : 1 ≤ c.maxPwmPeriod ∧ c.maxPwmPeriod ≤ 65535 := by
  have h := c.valid
  simp only [Params.wf, Params.periodInRange, Bool.and_eq_true, decide_eq_true_eq] at h
  exact h.2

/-! ### The clock (R56) -/

/-- A sample uses up the head of the environment's list, or one free draw. -/
theorem afterSample_cases (s : State) :
    (∃ c cs, s.clockIn = c :: cs ∧ sampleClock s = c ∧ afterSample s = { s with clockIn := cs }) ∨
    (s.clockIn = [] ∧ sampleClock s = Config.clockDraw s.draws ∧ afterSample s = { s with draws := s.draws + 1 }) := by
  cases h : s.clockIn with
  | nil => exact .inr ⟨rfl, by simp [sampleClock, h], by simp [afterSample, h]⟩
  | cons c cs => exact .inl ⟨c, cs, rfl, by simp [sampleClock, h], by simp [afterSample, h]⟩

/-- A sample touches `clockIn` and `draws` only. -/
theorem afterSample_eq (s : State) :
    afterSample s = { s with clockIn := (afterSample s).clockIn, draws := (afterSample s).draws } := by
  unfold afterSample
  split <;> rfl

/-! ### Emission (R55, R27) -/

theorem emitAll_append (ts us : List Txn) (s : State) : emitAll (ts ++ us) s = emitAll us (emitAll ts s) := by
  simp [emitAll, List.foldl_append]

/-- A transaction that is no level leaves every shadow as it is. -/
def isLevel : Txn → Bool
  | .sinkLevel _ _ => true
  | _ => false

theorem shadowAfter_of_not_level (ch : PinId) (t : Txn) (v : Level) (h : isLevel t = false) : shadowAfter ch t v = v := by
  cases t <;> simp_all [isLevel, shadowAfter]

/-- Transactions without a level only lengthen the trace. -/
theorem emitAll_of_no_level (ts : List Txn) (s : State) (h : ∀ t ∈ ts, isLevel t = false) :
    emitAll ts s = { s with trace := s.trace ++ ts } := by
  induction ts generalizing s with
  | nil => simp [emitAll]
  | cons t ts ih =>
    have ht := h t (by simp)
    have := ih (emit s t) (fun u hu => h u (by simp [hu]))
    simp only [emitAll, List.foldl_cons] at this ⊢
    rw [this]
    simp [emit, shadowAfter_of_not_level _ _ _ ht]

theorem perSlice_no_level (c : Config) (f : PinId → Txn) (h : ∀ ch, isLevel (f ch) = false) :
    ∀ t ∈ perSlice c f, isLevel t = false := by
  intro t ht
  unfold perSlice at ht
  split at ht <;> simp at ht <;> rcases ht with rfl | rfl <;> simp_all

theorem dividerTxns_no_level (c : Config) (d : Div16) : ∀ t ∈ dividerTxns c d, isLevel t = false :=
  perSlice_no_level c _ fun _ => rfl

theorem wrapTxns_no_level (c : Config) (p : Level) : ∀ t ∈ wrapTxns c p, isLevel t = false :=
  perSlice_no_level c _ fun _ => rfl

theorem configTxns_no_level (c : Config) (p : Level) (d : Div16) : ∀ t ∈ configTxns c p d, isLevel t = false :=
  perSlice_no_level c _ fun _ => rfl

theorem enableTxns_no_level (c : Config) : ∀ t ∈ enableTxns c, isLevel t = false :=
  perSlice_no_level c _ fun _ => rfl

theorem claimTxns_no_level (c : Config) : ∀ t ∈ claimTxns c, isLevel t = false := by
  simp [claimTxns, isLevel]

theorem releaseTxns_no_level (c : Config) : ∀ t ∈ releaseTxns c, isLevel t = false := by
  simp [releaseTxns, isLevel]

/-- The pair of level transactions sets both shadows (R128, R27). -/
theorem emitAll_levelTxns (c : Config) (l : Level × Level) (s : State) (hc : s.cfg = c) :
    emitAll (levelTxns c l) s =
      { s with trace := s.trace ++ levelTxns c l, levelPos := l.1, levelNeg := l.2 } := by
  subst hc
  have h := config_pins_ne s.cfg
  simp [emitAll, levelTxns, emit, shadowAfter, h, Ne.symm h]

/-- The same pair after other transactions without a level. -/
theorem emitAll_around_levels (c : Config) (before after : List Txn) (l : Level × Level) (s : State) (hc : s.cfg = c)
    (hb : ∀ t ∈ before, isLevel t = false) (ha : ∀ t ∈ after, isLevel t = false) :
    emitAll (before ++ levelTxns c l ++ after) s =
      { s with trace := s.trace ++ (before ++ levelTxns c l ++ after), levelPos := l.1, levelNeg := l.2 } := by
  subst hc
  rw [emitAll_append, emitAll_append, emitAll_of_no_level _ _ hb]
  rw [emitAll_levelTxns s.cfg l { s with trace := s.trace ++ before } rfl, emitAll_of_no_level _ _ ha]
  simp

/-- The end of a level-writing command: both shadows and the trace take the output levels, then OK. -/
theorem driveLevels_eq (n : State) :
    driveLevels n =
      { n with
        trace := n.trace ++ levelTxns n.cfg (outputLevels n)
        levelPos := (outputLevels n).1
        levelNeg := (outputLevels n).2
        result := .ok
        busy := false } := by
  rw [driveLevels, emitAll_levelTxns n.cfg _ _ rfl]
  rfl

/-- The transactions of INIT set both shadows to the output levels of the new state (R140). -/
theorem emitAll_initTxns (n : State) :
    emitAll (initTxns n) n =
      { n with
        trace := n.trace ++ initTxns n
        levelPos := (outputLevels n).1
        levelNeg := (outputLevels n).2 } := by
  have := emitAll_around_levels n.cfg (configTxns n.cfg n.period n.div16) (enableTxns n.cfg ++ claimTxns n.cfg)
    (outputLevels n) n rfl (configTxns_no_level _ _ _) (by
      intro t ht
      rcases List.mem_append.1 ht with h | h
      · exact enableTxns_no_level _ t h
      · exact claimTxns_no_level _ t h)
  simpa [initTxns] using this

/-- The transactions of SET_FREQUENCY set both shadows to the output levels of the new state, in either order (R180). -/
theorem emitAll_frequencyTxns (old : Level) (n : State) :
    emitAll (frequencyTxns old n) n =
      { n with
        trace := n.trace ++ frequencyTxns old n
        levelPos := (outputLevels n).1
        levelNeg := (outputLevels n).2 } := by
  have hno : ∀ t ∈ dividerTxns n.cfg n.div16 ++ wrapTxns n.cfg n.period, isLevel t = false := by
    intro t ht
    rcases List.mem_append.1 ht with h | h
    · exact dividerTxns_no_level _ _ t h
    · exact wrapTxns_no_level _ _ t h
  unfold frequencyTxns
  split
  · simpa using emitAll_around_levels n.cfg [] _ (outputLevels n) n rfl (by simp) hno
  · simpa using emitAll_around_levels n.cfg _ [] (outputLevels n) n rfl hno (by simp)

/-! ### The lifecycle checks (R222, R223) -/

theorem unlessTornDown_cases (s : State) (body : State → State) :
    (s.life = .tornDown ∧ unlessTornDown s body = finish .tornDown s) ∨
    (s.life ≠ .tornDown ∧ unlessTornDown s body = body s) := by
  unfold unlessTornDown
  cases s.life <;> simp

theorem whenReady_cases (s : State) (body : State → State) :
    (s.life = .tornDown ∧ whenReady s body = finish .tornDown s) ∨
    (s.life = .uninitialized ∧ whenReady s body = finish .notInitialized s) ∨
    (s.life = .ready ∧ whenReady s body = body s) := by
  unfold whenReady
  cases s.life <;> simp

/-! ### The operands -/

theorem clampSpeed_range (a : Word) : -65536 ≤ clampSpeed a ∧ clampSpeed a ≤ 65536 := by
  unfold clampSpeed
  omega

/-- The stored word of a clamped speed reads back as the clamped speed (R160, R74). -/
theorem clampWord_toInt (a : Word) : (clampWord a).toInt = clampSpeed a := by
  have h := clampSpeed_range a
  rw [clampWord, BitVec.toInt_ofInt, Int.bmod_eq_of_le] <;> omega

end Sys2Proof.Machine
end

