-- ==== Sys2Proof/Laws/DutyMapper.lean ====
section
/-! SUPPORT. What the duty mapper can answer: the signed duty is within the period, and no level is lost in its 16 bits. -/

namespace Sys2Proof.Machine

open Sys2Proof

/-- R121: a clamped speed gives a signed duty within the period. -/
theorem signedDuty_natAbs_le {speed : Int} {period : Nat} (h1 : -65536 ≤ speed) (h2 : speed ≤ 65536) :
    (signedDuty speed period).natAbs ≤ period := by
  have hs : speed.natAbs ≤ 65536 := by omega
  have hm : speed.natAbs * period ≤ 65536 * period := Nat.mul_le_mul_right _ hs
  have hq : (speed.natAbs * period + 32768) / 65536 ≤ period := by omega
  rw [signedDuty, Int.natAbs_mul, Int.natAbs_natCast]
  calc speed.sign.natAbs * ((speed.natAbs * period + 32768) / 65536)
      ≤ 1 * ((speed.natAbs * period + 32768) / 65536) := by
        apply Nat.mul_le_mul_right
        rw [Int.natAbs_sign]
        split <;> omega
    _ ≤ period := by omega

/-- Both levels are in 0..period when the signed duty is within the period (R126). -/
theorem steer_range {sd : Int} {period : Nat} (m : Decay) (h : sd.natAbs ≤ period) :
    0 ≤ (steer sd period m).1 ∧ (steer sd period m).1 ≤ period ∧
    0 ≤ (steer sd period m).2 ∧ (steer sd period m).2 ≤ period := by
  unfold steer
  cases m <;> simp only <;> split <;> simp only <;> omega

/-- For a clamped speed the 16-bit levels are the integers of R120. -/
theorem dutyMap_toNat {speed : Int} (period : Level) (m : Decay) (h1 : -65536 ≤ speed) (h2 : speed ≤ 65536) :
    (((dutyMap speed period m).1.toNat : Int) = (steer (signedDuty speed period.toNat) period.toNat m).1) ∧
    (((dutyMap speed period m).2.toNat : Int) = (steer (signedDuty speed period.toNat) period.toNat m).2) := by
  have hr := steer_range m (signedDuty_natAbs_le (period := period.toNat) h1 h2)
  have hp := period.isLt
  constructor <;> simp only [dutyMap, BitVec.toNat_ofInt] <;> omega

end Sys2Proof.Machine
end

