-- ==== Sys2Proof/Laws/Factorizer.lean ====
section
/-! SUPPORT. What the factorizer's loop can do: one inversion lemma for a pass, and the facts every pass keeps. -/

namespace Sys2Proof.Machine

open Sys2Proof

/-- What one pass can answer (R104): a factor 5 or 3 that divides the residual, or the halving; the residual stays at
least 16 and the period within its bound. -/
theorem nextFactor_cases {maxP d p k : Nat} (h : nextFactor maxP d p = some k) :
    ((k = 5 ∧ d % 5 = 0) ∨ (k = 3 ∧ d % 3 = 0) ∨ k = 2) ∧ 16 * k ≤ d ∧ p * k ≤ maxP := by
  unfold nextFactor at h
  split at h
  · cases h; omega
  · split at h
    · cases h; omega
    · split at h
      · cases h; omega
      · cases h

/-- A pass that answers nothing: the halving is not possible (R104). -/
theorem nextFactor_none {maxP d p : Nat} (h : nextFactor maxP d p = none) : d < 32 ∨ maxP < p * 2 := by
  unfold nextFactor at h
  split at h
  · cases h
  · split at h
    · cases h
    · split at h
      · cases h
      · omega

/-- Any property of the residual and the period that each pass keeps holds after the loop. -/
theorem extract_keeps {maxP : Nat} (P : Nat → Nat → Prop)
    (hstep : ∀ d p k, nextFactor maxP d p = some k → P d p → P (d / k) (p * k)) :
    ∀ n d p, P d p → P (extract maxP n d p).1 (extract maxP n d p).2 := by
  intro n
  induction n with
  | zero => intro d p h; exact h
  | succ n ih =>
    intro d p h
    unfold extract
    cases hk : nextFactor maxP d p with
    | none => exact h
    | some k => exact ih _ _ (hstep d p k hk h)

/-- Success of the factorizer, taken apart (R100). -/
theorem factorize_eq_some {maxP f c P D : Nat} (h : factorize maxP f c = some (P, D)) :
    16 ≤ f ∧ f ≤ 8 * c ∧ extraction maxP f c = (D, P) ∧ 16 ≤ D ∧ D < 4096 := by
  unfold factorize at h
  split at h
  · cases h
  · split at h
    · cases h
    · split at h
      · cases h
      · simp only [Option.some.injEq, Prod.mk.injEq] at h
        obtain ⟨rfl, rfl⟩ := h
        refine ⟨by omega, by omega, rfl, by omega, by omega⟩

/-- The word form's success comes from a success on numbers. -/
theorem factorizeWord_eq_some {maxP : Nat} {f c : Word} {p : Level} {d : Div16}
    (h : factorizeWord maxP f c = some (p, d)) :
    ∃ P D, factorize maxP f.toNat c.toNat = some (P, D) ∧ p = BitVec.ofNat 16 P ∧ d = BitVec.ofNat 12 D := by
  unfold factorizeWord at h
  cases hf : factorize maxP f.toNat c.toNat with
  | none => simp [hf] at h
  | some r =>
    simp only [hf, Option.map_some, Option.some.injEq, Prod.mk.injEq] at h
    exact ⟨r.1, r.2, rfl, h.1.symm, h.2.symm⟩

end Sys2Proof.Machine
end

