-- ==== Sys2Proof/Laws/Commands.lean ====
section
/-! SUPPORT. One inversion lemma per command: what the command can do, with the conditions under which it does it. Later
proofs cite these and unfold no meaning. -/

namespace Sys2Proof.Machine

open Sys2Proof

/-- INIT: torn down, infeasible, or the whole programming of the sink (R140). -/
theorem exec_init_cases {s t : State} (h : exec .init s = .next t) :
    (s.life = .tornDown ∧ t = finish .tornDown s) ∨
    (s.life ≠ .tornDown ∧ factorizeWord s.cfg.maxPwmPeriod s.cfg.defaultFreq (sampleClock s) = none ∧
      t = finish .infeasibleFrequency (afterSample s)) ∨
    (∃ p d, s.life ≠ .tornDown ∧ factorizeWord s.cfg.maxPwmPeriod s.cfg.defaultFreq (sampleClock s) = some (p, d) ∧
      t = finish .ok (emitAll (initTxns (initState p d (afterSample s))) (initState p d (afterSample s)))) := by
  simp only [exec, execInit, Host.Outcome.next.injEq] at h
  subst h
  rcases unlessTornDown_cases s initBody with ⟨hl, he⟩ | ⟨hl, he⟩
  · exact .inl ⟨hl, he⟩
  · rw [he]
    unfold initBody
    cases hf : factorizeWord s.cfg.maxPwmPeriod s.cfg.defaultFreq (sampleClock s) with
    | none => exact .inr (.inl ⟨hl, rfl, rfl⟩)
    | some r => exact .inr (.inr ⟨r.1, r.2, hl, rfl, rfl⟩)

/-- TEARDOWN: torn down already, or both releases (R146). -/
theorem exec_teardown_cases {s t : State} (h : exec .teardown s = .next t) :
    (s.life = .tornDown ∧ t = finish .tornDown s) ∨
    (s.life ≠ .tornDown ∧
      t = { s with trace := s.trace ++ releaseTxns s.cfg, life := .tornDown, result := .ok, busy := false }) := by
  simp only [exec, execTeardown, Host.Outcome.next.injEq] at h
  subst h
  rcases unlessTornDown_cases s teardownBody with ⟨hl, he⟩ | ⟨hl, he⟩
  · exact .inl ⟨hl, he⟩
  · refine .inr ⟨hl, ?_⟩
    rw [he, teardownBody, emitAll_of_no_level _ _ (releaseTxns_no_level _)]
    rfl

/-- SET_SPEED (R161). -/
theorem exec_setSpeed_cases {s t : State} (h : exec .setSpeed s = .next t) :
    (s.life = .tornDown ∧ t = finish .tornDown s) ∨
    (s.life = .uninitialized ∧ t = finish .notInitialized s) ∨
    (s.life = .ready ∧ t = driveLevels { s with speed := clampWord s.arg, enabled := true }) := by
  simp only [exec, execSetSpeed, Host.Outcome.next.injEq] at h
  subst h
  exact whenReady_cases s _

/-- SET_DECAY_MODE (R164). -/
theorem exec_setDecayMode_cases {s t : State} (h : exec .setDecayMode s = .next t) :
    (s.life = .tornDown ∧ t = finish .tornDown s) ∨
    (s.life = .uninitialized ∧ t = finish .notInitialized s) ∨
    (s.life = .ready ∧ decayOperand s.arg = none ∧ t = finish .badOperand s) ∨
    (∃ m, s.life = .ready ∧ decayOperand s.arg = some m ∧ t = driveLevels { s with decay := m }) := by
  simp only [exec, execSetDecayMode, Host.Outcome.next.injEq] at h
  subst h
  rcases whenReady_cases s _ with h | h | ⟨hl, he⟩
  · exact .inl h
  · exact .inr (.inl h)
  · rw [he]
    cases hd : decayOperand s.arg with
    | none => exact .inr (.inr (.inl ⟨hl, rfl, rfl⟩))
    | some m => exact .inr (.inr (.inr ⟨m, hl, rfl, rfl⟩))

/-- STOP (R166). -/
theorem exec_stop_cases {s t : State} (h : exec .stop s = .next t) :
    (s.life = .tornDown ∧ t = finish .tornDown s) ∨
    (s.life = .uninitialized ∧ t = finish .notInitialized s) ∨
    (s.life = .ready ∧ t = driveLevels { s with speed := 0, enabled := true }) := by
  simp only [exec, execStop, Host.Outcome.next.injEq] at h
  subst h
  exact whenReady_cases s _

/-- DISABLE (R168). -/
theorem exec_disable_cases {s t : State} (h : exec .disable s = .next t) :
    (s.life = .tornDown ∧ t = finish .tornDown s) ∨
    (s.life = .uninitialized ∧ t = finish .notInitialized s) ∨
    (s.life = .ready ∧
      t = { s with
        speed := 0
        enabled := false
        trace := s.trace ++ levelTxns s.cfg (0, 0)
        levelPos := 0
        levelNeg := 0
        result := .ok
        busy := false }) := by
  simp only [exec, execDisable, Host.Outcome.next.injEq] at h
  subst h
  rcases whenReady_cases s (fun s => finish .ok (emitAll (levelTxns s.cfg (0, 0)) { s with speed := 0, enabled := false }))
    with h | h | ⟨hl, he⟩
  · exact .inl h
  · exact .inr (.inl h)
  · refine .inr (.inr ⟨hl, ?_⟩)
    rw [he, emitAll_levelTxns s.cfg (0, 0) { s with speed := 0, enabled := false } rfl]
    rfl

/-- SET_FREQUENCY (R180). -/
theorem exec_setFrequency_cases {s t : State} (h : exec .setFrequency s = .next t) :
    (s.life = .tornDown ∧ t = finish .tornDown s) ∨
    (s.life = .uninitialized ∧ t = finish .notInitialized s) ∨
    (s.life = .ready ∧ factorizeWord s.cfg.maxPwmPeriod s.arg (sampleClock s) = none ∧
      t = finish .infeasibleFrequency (afterSample s)) ∨
    (∃ p d, s.life = .ready ∧ factorizeWord s.cfg.maxPwmPeriod s.arg (sampleClock s) = some (p, d) ∧
      t = finish .ok (emitAll (frequencyTxns s.period (frequencyState p d (afterSample s)))
        (frequencyState p d (afterSample s)))) := by
  simp only [exec, execSetFrequency, Host.Outcome.next.injEq] at h
  subst h
  rcases whenReady_cases s setFrequencyBody with h | h | ⟨hl, he⟩
  · exact .inl h
  · exact .inr (.inl h)
  · rw [he]
    unfold setFrequencyBody
    cases hf : factorizeWord s.cfg.maxPwmPeriod s.arg (sampleClock s) with
    | none => exact .inr (.inr (.inl ⟨hl, rfl, rfl⟩))
    | some r => exact .inr (.inr (.inr ⟨r.1, r.2, hl, rfl, rfl⟩))

/-- The value a query returns (R200, R202, R204). -/
def queryValue (i : Instr) (s : State) : Word :=
  match i with
  | .getFrequency => s.freq
  | .getDecayMode => (decayBit s.decay).setWidth 32
  | _ => s.speed

/-- The three queries (R200, R202, R204). -/
theorem exec_query_cases {i : Instr} {s t : State} (hi : i = .getSpeed ∨ i = .getFrequency ∨ i = .getDecayMode)
    (h : exec i s = .next t) :
    (s.life = .tornDown ∧ t = finish .tornDown s) ∨
    (s.life ≠ .tornDown ∧ t = { s with resultReg := queryValue i s, result := .ok, busy := false }) := by
  rcases hi with rfl | rfl | rfl
  all_goals
    simp only [exec, execGetSpeed, execGetFrequency, execGetDecayMode, Host.Outcome.next.injEq] at h
    subst h
    exact unlessTornDown_cases s _

/-- Every command answers a next state (R220: each ends with a result code). -/
theorem exec_next (i : Instr) (s : State) : ∃ t, exec i s = .next t := by
  cases i <;> exact ⟨_, rfl⟩

/-- What no command touches: the configuration, `ARG`, and what is the host's; and `BUSY` is 0 when it finishes (R13,
R32, R6). -/
theorem exec_outside {i : Instr} {s t : State} (h : exec i s = .next t) :
    t.cfg = s.cfg ∧ t.arg = s.arg ∧ t.host = s.host ∧ t.replies = s.replies ∧ t.hostFault = s.hostFault ∧
    t.busy = false := by
  cases i with
  | init => rcases exec_init_cases h with ⟨-, rfl⟩ | ⟨-, -, rfl⟩ | ⟨p, d, -, -, rfl⟩ <;> simp
  | setSpeed => rcases exec_setSpeed_cases h with ⟨-, rfl⟩ | ⟨-, rfl⟩ | ⟨-, rfl⟩ <;> simp [driveLevels]
  | setFrequency =>
    rcases exec_setFrequency_cases h with ⟨-, rfl⟩ | ⟨-, rfl⟩ | ⟨-, -, rfl⟩ | ⟨p, d, -, -, rfl⟩ <;> simp
  | setDecayMode =>
    rcases exec_setDecayMode_cases h with ⟨-, rfl⟩ | ⟨-, rfl⟩ | ⟨-, -, rfl⟩ | ⟨m, -, -, rfl⟩ <;> simp [driveLevels]
  | stop => rcases exec_stop_cases h with ⟨-, rfl⟩ | ⟨-, rfl⟩ | ⟨-, rfl⟩ <;> simp [driveLevels]
  | disable => rcases exec_disable_cases h with ⟨-, rfl⟩ | ⟨-, rfl⟩ | ⟨-, rfl⟩ <;> simp
  | getSpeed => rcases exec_query_cases (.inl rfl) h with ⟨-, rfl⟩ | ⟨-, rfl⟩ <;> simp
  | getFrequency => rcases exec_query_cases (.inr (.inl rfl)) h with ⟨-, rfl⟩ | ⟨-, rfl⟩ <;> simp
  | getDecayMode => rcases exec_query_cases (.inr (.inr rfl)) h with ⟨-, rfl⟩ | ⟨-, rfl⟩ <;> simp
  | teardown => rcases exec_teardown_cases h with ⟨-, rfl⟩ | ⟨-, rfl⟩ <;> simp

/-! ### Events -/

/-- What the start of a command can do: run the decoded command, or ILLEGAL (R71). -/
theorem startCommand_cases {w : Word} {s t : State} (h : startCommand w s = .next t) :
    (∃ i, decode w = .command i ∧ exec i { s with busy := true } = .next t) ∨
    (∃ r, decode w = .illegal r ∧ t = finish .illegalCommand s) := by
  unfold startCommand at h
  cases hd : decode w with
  | command i => exact .inl ⟨i, rfl, by simpa [hd] using h⟩
  | illegal r =>
    simp only [hd, execIllegal, Host.Outcome.next.injEq] at h
    exact .inr ⟨r, rfl, h.symm⟩

/-- What the start of a command leaves to the host, and that `BUSY` is 0 when it has finished. -/
theorem startCommand_outside {w : Word} {s t : State} (h : startCommand w s = .next t) :
    t.cfg = s.cfg ∧ t.arg = s.arg ∧ t.host = s.host ∧ t.replies = s.replies ∧ t.hostFault = s.hostFault ∧
    t.busy = false := by
  rcases startCommand_cases h with ⟨i, -, hi⟩ | ⟨r, -, rfl⟩
  · simpa using exec_outside hi
  · simp

/-- The start of a command answers a next state. -/
theorem startCommand_next (w : Word) (s : State) : ∃ t, startCommand w s = .next t := by
  unfold startCommand
  split
  · exact exec_next _ _
  · exact ⟨_, rfl⟩

/-- What a write by the host can do (R31, R32, R40, R52). -/
theorem hostWrite_cases {width : AccessWidth} {offset : BitVec 6} {v : Word} {s t : State}
    (h : hostWrite width offset v s = .next t) :
    (admitted width offset = false ∧ t = busError s) ∨
    (admitted width offset = true ∧ offset.toNat = 0x00 ∧ s.busy = false ∧ startCommand v s = .next t) ∨
    (admitted width offset = true ∧ offset.toNat = 0x04 ∧ s.busy = false ∧ t = { s with arg := v }) ∨
    (admitted width offset = true ∧ offset.toNat ≠ 0x00 ∧ offset.toNat ≠ 0x04 ∧ t = s) := by
  unfold hostWrite at h
  split at h
  · rename_i ha
    split at h
    · rename_i ho
      split at h
      · cases h
      · exact .inr (.inl ⟨ha, ho, by simpa using ‹¬ s.busy = true›, h⟩)
    · rename_i ho
      split at h
      · cases h
      · exact .inr (.inr (.inl ⟨ha, ho, by simpa using ‹¬ s.busy = true›, by simpa using h.symm⟩))
    · rename_i h0 h4
      exact .inr (.inr (.inr ⟨ha, h0, h4, by simpa using h.symm⟩))
  · exact .inl ⟨by simpa using ‹¬ admitted width offset = true›, by simpa using h.symm⟩

/-- What a read by the host can do (R54, R52). -/
theorem hostRead_cases {width : AccessWidth} {offset : BitVec 6} {s t : State} (h : hostRead width offset s = .next t) :
    (admitted width offset = true ∧ t = { s with replies := s.replies ++ [.data (readReg s offset)] }) ∨
    (admitted width offset = false ∧ t = busError s) := by
  unfold hostRead at h
  split at h
  · exact .inl ⟨‹_›, by simpa using h.symm⟩
  · exact .inr ⟨by simpa using ‹¬ admitted width offset = true›, by simpa using h.symm⟩

/-- A reset in the middle of a command comes from the command's own outcome (R250). -/
theorem resetDuring_cases {w : Word} {k : Nat} {s t : State} (h : resetDuring w k s = .next t) :
    ∃ d, s.busy = false ∧ startCommand w s = .next d ∧ t = abandonCommand k s d := by
  unfold resetDuring at h
  cases hw : hostWrite .word 0x00#6 w s with
  | next d =>
    simp only [hw, Host.Outcome.next.injEq] at h
    rcases hostWrite_cases hw with ⟨ha, -⟩ | ⟨-, -, hb, hs⟩ | ⟨-, ho, -⟩ | ⟨-, ho, -⟩
    · simp [admitted] at ha
    · exact ⟨d, hb, hs, h.symm⟩
    · simp at ho
    · simp at ho
  | fault r => simp [hw] at h
  | refused r => simp [hw] at h

/-- A write that lands while `BUSY = 1` answers no next state (R226). -/
theorem overrun_ne_next {w : Word} {toArg : Bool} {v : Word} {s t : State} : overrun w toArg v s ≠ .next t := by
  unfold overrun
  cases hostWrite .word 0x00#6 w s with
  | next d => cases toArg <;> simp [hostWrite, admitted]
  | fault r => simp
  | refused r => simp

/-- What one step can do: wait, a window access, a reset, or a command abandoned by a reset. -/
theorem step_cases {s t : State} (h : step s = .next t) :
    (s.host = [] ∧ t = s) ∨
    (∃ width offset es, s.host = .access (.read width offset) :: es ∧
      hostRead width offset { s with host := es } = .next t) ∨
    (∃ width offset v es, s.host = .access (.write width offset v) :: es ∧
      hostWrite width offset v { s with host := es } = .next t) ∨
    (∃ es, s.host = .reset :: es ∧ t = resetBlock { s with host := es }) ∨
    (∃ w k es d, s.host = .resetDuring w k :: es ∧ s.busy = false ∧ startCommand w { s with host := es } = .next d ∧
      t = abandonCommand k { s with host := es } d) := by
  unfold step nextEvent at h
  cases hh : s.host with
  | nil => exact .inl ⟨rfl, by simpa [hh] using h.symm⟩
  | cons e es =>
    simp only [hh] at h
    cases e with
    | access a =>
      cases a with
      | read width offset => exact .inr (.inl ⟨width, offset, es, rfl, h⟩)
      | write width offset v => exact .inr (.inr (.inl ⟨width, offset, v, es, rfl, h⟩))
    | reset =>
      simp only [handleEvent, Host.Outcome.next.injEq] at h
      exact .inr (.inr (.inr (.inl ⟨es, rfl, h.symm⟩)))
    | resetDuring w k =>
      obtain ⟨d, hb, hs, ht⟩ := resetDuring_cases h
      exact .inr (.inr (.inr (.inr ⟨w, k, es, d, rfl, hb, hs, ht⟩)))
    | overrun w toArg v => exact absurd h overrun_ne_next

end Sys2Proof.Machine
end

