-- ==== Sys2Proof/Laws/PerInstr.lean ====
section
/-! SUPPORT. The family Encoding: for each command, that it is well-formed, that its word has zeros in `RSVD` and its opcode
in `OPC` (R70, R72), and that the decoder reads the word back (R71). -/

namespace Sys2Proof.Laws.Encoding

open Sys2Proof

/-- What is said of each command. -/
def Statement (i : Instr) : Prop :=
  i.wf = true ∧ rsvdField (encode i) = 0 ∧ opcField (encode i) = opcode i ∧ decode (encode i) = .command i

theorem init : Statement .init := by unfold Statement; decide
theorem setSpeed : Statement .setSpeed := by unfold Statement; decide
theorem setFrequency : Statement .setFrequency := by unfold Statement; decide
theorem setDecayMode : Statement .setDecayMode := by unfold Statement; decide
theorem stop : Statement .stop := by unfold Statement; decide
theorem disable : Statement .disable := by unfold Statement; decide
theorem getSpeed : Statement .getSpeed := by unfold Statement; decide
theorem getFrequency : Statement .getFrequency := by unfold Statement; decide
theorem getDecayMode : Statement .getDecayMode := by unfold Statement; decide
theorem teardown : Statement .teardown := by unfold Statement; decide

end Sys2Proof.Laws.Encoding
end

