-- ==== Sys2Proof/Laws/Run.lean ====
section
/-! SUPPORT. Runs: one step taken off a run's front, and the one induction over a run that later proofs cite. -/

namespace Sys2Proof.Machine

open Sys2Proof

theorem core_run_succ {M : Host.Core} {n : Nat} {s t : M.State} (h : M.run (n + 1) s = .next t) :
    ∃ u, M.step s = .next u ∧ M.run n u = .next t := by
  unfold Host.Core.run at h
  cases hs : M.step s with
  | next u => exact ⟨u, rfl, by simpa [hs] using h⟩
  | fault r => simp [hs] at h
  | refused r => simp [hs] at h

theorem core_run_cons {M : Host.Core} {n : Nat} {s u : M.State} (h : M.step s = .next u) :
    M.run (n + 1) s = M.run n u := by
  conv => lhs; unfold Host.Core.run
  rw [h]

/-- No step: the state itself. -/
theorem run_zero {s t : State} (h : Sys2Proof.core.run 0 s = .next t) : t = s :=
  (Host.Outcome.next.inj h).symm

/-- A run of one more step begins with a step that answers a next state. -/
theorem run_succ {n : Nat} {s t : State} (h : Sys2Proof.core.run (n + 1) s = .next t) :
    ∃ u, step s = .next u ∧ Sys2Proof.core.run n u = .next t := core_run_succ (M := Sys2Proof.core) h

/-- A step to a next state, put before a run. -/
theorem run_cons {n : Nat} {s u : State} (h : step s = .next u) :
    Sys2Proof.core.run (n + 1) s = Sys2Proof.core.run n u := core_run_cons (M := Sys2Proof.core) h

/-- What every step keeps holds at the end of a run that begins with it. -/
theorem run_keeps {P : State → Prop} (hstep : ∀ s t, P s → step s = .next t → P t) :
    ∀ {n : Nat} {s t : State}, P s → Sys2Proof.core.run n s = .next t → P t := by
  intro n
  induction n with
  | zero => intro s t h0 h; exact run_zero h ▸ h0
  | succ n ih =>
    intro s t h0 h
    obtain ⟨u, hu, hr⟩ := run_succ h
    exact ih (hstep s u h0 hu) hr

end Sys2Proof.Machine
end

