-- ==== Sys2Proof/Tests/Slice0.lean ====
section
/-! SUPPORT. The model's own tests: ill-formed configurations, the words of the opcode map written out, the spec's test
vectors (95_test_vectors.md), and for every statement with hypotheses a witness that meets them, one for each clause. -/

namespace Sys2Proof.Tests

open Sys2Proof Sys2Proof.Machine

/-! ### States the tests start from -/

/-- "reset" of 95_test_vectors.md §2.5, with the clock input at 125 MHz for the next two samples. -/
def fresh : State := { State.reset with clockIn := [125000000#32, 125000000#32] }

/-- The start of §2.6: Ready, P 5000, D 16, speed 0.5, SlowDecay, enabled, levels (5000, 2500). -/
def ready : State :=
  { fresh with
    life := .ready
    speed := 0x00008000#32
    period := 5000#16
    div16 := 16#12
    enabled := true
    levelPos := 5000#16
    levelNeg := 2500#16 }

/-- The end of V-F1: P 62500, D 32, F 16000. -/
def readySlow : State :=
  { ready with period := 62500#16, div16 := 32#12, freq := 16000#32, levelPos := 62500#16, levelNeg := 31250#16 }

/-- `ready` under FastDecay, levels (2500, 0). -/
def readyFast : State := { ready with decay := .fast, levelPos := 2500#16, levelNeg := 0#16 }

/-- `ready` after SET_SPEED −0.5: levels (2500, 5000). -/
def readyBack : State := { ready with speed := 0xFFFF8000#32, levelPos := 2500#16, levelNeg := 5000#16 }

/-- `ready` after DISABLE. -/
def disabled : State := { ready with speed := 0#32, enabled := false, levelPos := 0#16, levelNeg := 0#16 }

/-- `ready` after TEARDOWN. -/
def torn : State := { ready with life := .tornDown }

/-- A clock the default frequency is infeasible for. -/
def badClock (s : State) : State := { s with clockIn := [1#32] }

/-- The instance of V-L4: a default frequency of 0.5 Hz. -/
def slowConfig : Config where
  pinPos := 4#8
  pinNeg := 5#8
  defaultFreq := 8#32
  defaultDecay := .slow
  sharedSlice := false
  maxPwmPeriod := 65535
  valid := by decide

/-- The instance of V-L2: one slice for both channels. -/
def sharedConfig : Config where
  pinPos := 4#8
  pinNeg := 5#8
  defaultFreq := 400000#32
  defaultDecay := .slow
  sharedSlice := true
  maxPwmPeriod := 65535
  valid := by decide

/-- Whether an outcome is a next state with the property. -/
def nextHas (o : Host.Outcome State Fault Refusal) (p : State → Bool) : Bool :=
  match o with
  | .next t => p t
  | .fault _ => false
  | .refused _ => false

/-- One step on the command word `w` with the operand `arg`. -/
def command (w : Nat) (arg : Word) (s : State) : Host.Outcome State Fault Refusal :=
  step (State.withFetchWord { s with arg := arg } 32 w)

/-! ### Ill-formed terms are refused (R8, R227) -/

def goodParams : Params := ⟨4#8, 5#8, 400000#32, .slow, false, 65535⟩

theorem test_good_params : goodParams.wf = true ∧ (Config.build goodParams).isSome = true := by decide
theorem test_same_pins_refused :
    ({ goodParams with pinNeg := 4#8 } : Params).wf = false ∧
    Config.build { goodParams with pinNeg := 4#8 } = none := by decide
theorem test_period_zero_refused :
    ({ goodParams with maxPwmPeriod := 0 } : Params).wf = false ∧
    Config.build { goodParams with maxPwmPeriod := 0 } = none := by decide
theorem test_period_too_large_refused :
    ({ goodParams with maxPwmPeriod := 65536 } : Params).wf = false ∧
    Config.build { goodParams with maxPwmPeriod := 65536 } = none := by decide
theorem test_every_command_wf : ∀ i ∈ allInstrs, i.wf = true := by decide

/-! ### Decoding (R70 to R73): the words of the opcode map, and the bytes of one -/

theorem test_decode_init : decode 0b00000000000000000000000000000001#32 = .command .init := by decide
theorem test_decode_set_speed : decode 0b00000000000000000000000000000010#32 = .command .setSpeed := by decide
theorem test_decode_set_frequency : decode 0b00000000000000000000000000000011#32 = .command .setFrequency := by decide
theorem test_decode_set_decay_mode : decode 0b00000000000000000000000000000100#32 = .command .setDecayMode := by decide
theorem test_decode_stop : decode 0b00000000000000000000000000000101#32 = .command .stop := by decide
theorem test_decode_disable : decode 0b00000000000000000000000000000110#32 = .command .disable := by decide
theorem test_decode_get_speed : decode 0b00000000000000000000000000000111#32 = .command .getSpeed := by decide
theorem test_decode_get_frequency : decode 0b00000000000000000000000000001000#32 = .command .getFrequency := by decide
theorem test_decode_get_decay_mode : decode 0b00000000000000000000000000001001#32 = .command .getDecayMode := by decide
theorem test_decode_teardown : decode 0b00000000000000000000000000001010#32 = .command .teardown := by decide
theorem test_decode_illegal :
    decode 0x00000000#32 = .illegal .illegalOpcode ∧ decode 0x0000000B#32 = .illegal .illegalOpcode ∧
    decode 0x0000000F#32 = .illegal .illegalOpcode ∧ decode 0x00000012#32 = .illegal .reservedBits := by decide
theorem test_decode_bytes :
    decodeBytes [0x02#8, 0x00#8, 0x00#8, 0x00#8, 0x07#8] = (.command .setSpeed, [0x07#8]) ∧
    decodeBytes [0x00#8, 0x00#8, 0x00#8, 0x02#8] = (.illegal .reservedBits, []) ∧
    decodeBytes [0x02#8, 0x00#8, 0x00#8] = (.illegal .truncated, []) := by decide
theorem test_decode_table_word :
    decodeTableWord 32 1 = some .init ∧ decodeTableWord 32 10 = some .teardown ∧ decodeTableWord 32 18 = none := by
  decide

/-! ### The lifecycle commands (95_test_vectors.md §2.5) -/

/-- V-L1. -/
theorem test_init :
    nextHas (command 0x1 0#32 fresh) (fun t => decide (t.trace =
      [.sinkCfg 4#8 5000#16 1#8 0#4, .sinkCfg 5#8 5000#16 1#8 0#4, .sinkLevel 4#8 5000#16, .sinkLevel 5#8 5000#16,
        .sinkEnable 4#8, .sinkEnable 5#8, .pinClaim 4#8, .pinClaim 5#8] ∧ statusWord t = 0x00000106#32)) = true := by
  decide +kernel

/-- V-L6, V-L12. -/
theorem test_init_fails :
    nextHas (command 0x1 0#32 (badClock fresh)) (fun t => decide (t.trace = [] ∧ statusWord t = 0x00000110#32)) = true ∧
    nextHas (command 0x1 0#32 torn) (fun t => decide (t.clockIn = torn.clockIn ∧ t.result = .tornDown)) = true := by
  decide +kernel

/-- V-L9, V-L10. -/
theorem test_teardown :
    nextHas (command 0xA 0#32 { ready with enabled := true })
      (fun t => decide (t.trace = [.pinRelease 4#8, .pinRelease 5#8] ∧ statusWord t = 0x0000010C#32)) = true ∧
    nextHas (command 0xA 0#32 fresh)
      (fun t => decide (t.trace = [.pinRelease 4#8, .pinRelease 5#8] ∧ statusWord t = 0x00000108#32)) = true := by
  decide

/-! ### The drive commands (§2.6) -/

/-- V-D2. -/
theorem test_set_speed_clamps :
    nextHas (command 0x2 0xFFFB0000#32 ready) (fun t => decide
      (t.trace = [.sinkLevel 4#8 0#16, .sinkLevel 5#8 5000#16] ∧ t.speed = 0xFFFF0000#32)) = true := by
  decide +kernel

/-- V-D15. -/
theorem test_set_speed_reenables :
    nextHas (command 0x2 0xFFFF8000#32 disabled) (fun t => decide
      (t.trace = [.sinkLevel 4#8 2500#16, .sinkLevel 5#8 5000#16] ∧ t.enabled = true)) = true := by
  decide +kernel

/-- V-D7, V-D13. -/
theorem test_set_decay_mode :
    nextHas (command 0x4 0#32 ready) (fun t => decide
      (t.trace = [.sinkLevel 4#8 2500#16, .sinkLevel 5#8 0#16] ∧ statusWord t = 0x00000006#32)) = true ∧
    nextHas (command 0x4 0#32 disabled) (fun t => decide
      (t.trace = [.sinkLevel 4#8 0#16, .sinkLevel 5#8 0#16] ∧ statusWord t = 0x00000002#32)) = true := by
  decide +kernel

/-- V-D9. -/
theorem test_set_decay_mode_bad_operand :
    nextHas (command 0x4 2#32 ready) (fun t => decide (t.trace = [] ∧ statusWord t = 0x00000146#32)) = true := by
  decide

/-- V-D14. -/
theorem test_stop :
    nextHas (command 0x5 0#32 disabled) (fun t => decide
      (t.trace = [.sinkLevel 4#8 5000#16, .sinkLevel 5#8 5000#16] ∧ t.enabled = true ∧ t.speed = 0#32)) = true := by
  decide +kernel

/-- V-D12. -/
theorem test_disable :
    nextHas (command 0x6 0#32 ready) (fun t => decide
      (t.trace = [.sinkLevel 4#8 0#16, .sinkLevel 5#8 0#16] ∧ statusWord t = 0x00000102#32)) = true := by
  decide

/-! ### SET_FREQUENCY (§2.7) -/

/-- V-F1. -/
theorem test_set_frequency_grows :
    nextHas (command 0x3 16000#32 ready) (fun t => decide (t.trace =
      [.sinkLevel 4#8 62500#16, .sinkLevel 5#8 31250#16, .sinkDiv 4#8 2#8 0#4, .sinkDiv 5#8 2#8 0#4,
        .sinkWrap 4#8 62499#16, .sinkWrap 5#8 62499#16] ∧ t.period = 62500#16 ∧ t.div16 = 32#12)) = true := by
  decide +kernel

/-- V-F2. -/
theorem test_set_frequency_shrinks :
    nextHas (command 0x3 400000#32 readySlow) (fun t => decide (t.trace =
      [.sinkDiv 4#8 1#8 0#4, .sinkDiv 5#8 1#8 0#4, .sinkWrap 4#8 4999#16, .sinkWrap 5#8 4999#16,
        .sinkLevel 4#8 5000#16, .sinkLevel 5#8 2500#16] ∧ t.freq = 400000#32)) = true := by
  decide +kernel

/-! ### The queries (§2.8) and the words that are no command -/

/-- V-Q4, V-Q8. -/
theorem test_get_speed :
    nextHas (command 0x7 0#32 { ready with speed := 0x00010000#32 }) (fun t => decide
      (t.resultReg = 0x00010000#32 ∧ t.result = .ok)) = true ∧
    nextHas (command 0x7 0#32 { torn with speed := 0#32, resultReg := 0x00008000#32 }) (fun t => decide
      (t.resultReg = 0x00008000#32 ∧ t.result = .tornDown)) = true := by decide

/-- V-Q2. -/
theorem test_get_frequency :
    nextHas (command 0x8 0#32 fresh) (fun t => decide (t.resultReg = 0x00061A80#32 ∧ t.result = .ok)) = true := by decide

/-- V-Q3. -/
theorem test_get_decay_mode :
    nextHas (command 0x9 0#32 fresh) (fun t => decide (t.resultReg = 0x00000001#32 ∧ t.result = .ok)) = true := by decide

/-- V-Q9, V-Q10. -/
theorem test_illegal_word :
    nextHas (command 0x12 0x00008000#32 ready) (fun t => decide
      (t.result = .illegalCommand ∧ t.speed = ready.speed)) = true ∧
    nextHas (command 0xF 0#32 torn) (fun t => decide (t.result = .illegalCommand)) = true := by decide

/-! ### The factorizer, the duty mapper, the wire words and the assembler -/

/-- §2.2: F 480000 and F 128 at 125 MHz, and three failures. -/
theorem test_factorizer :
    factorize 65535 480000 125000000 = some (3600, 18) ∧ factorize 65535 128 125000000 = some (62500, 4000) ∧
    factorize 65535 4294967295 4294967295 = some (16, 16) ∧
    factorize 65535 8 125000000 = none ∧ factorize 65535 16 125000000 = none ∧
    factorize 65535 1000000001 125000000 = none := by decide +kernel

/-- V-D1, V-D2, V-D5 and V-D7 as pairs of levels. -/
theorem test_duty_mapper :
    dutyMap 65536 5000#16 .slow = (5000#16, 0#16) ∧ dutyMap (-65536) 5000#16 .slow = (0#16, 5000#16) ∧
    dutyMap 1 5000#16 .slow = (5000#16, 5000#16) ∧ dutyMap 32768 5000#16 .fast = (2500#16, 0#16) := by decide

/-- R85's example. -/
theorem test_wire_word : txnWord (.sinkWrap 3#8 4999#16) = 0x9C381A#39 := by decide

/-- R86, R87: `SET_SPEED -0.5 ; back` sets `ARG` to 0xFFFF8000. -/
theorem test_assembler :
    (parseLine ['S', 'E', 'T', '_', 'S', 'P', 'E', 'E', 'D', ' ', '-', '0', '.', '5', ' ', ';', ' ', 'b']).bind assemble
      = some ⟨.setSpeed, some 0xFFFF8000#32⟩ := by decide +kernel

/-! ### The window, reset and the host's faults -/

/-- R52, R226: an access of another width leaves the block as it was and is recorded. -/
theorem test_bus_error :
    nextHas (step { ready with host := [.access (.write .byte 0#6 6#32)] }) (fun t => decide
      (t.hostFault = true ∧ t.enabled = true ∧ t.replies = [.busError])) = true := by decide

/-- R250: a reset in the middle of INIT, after one transaction. -/
theorem test_reset_during_init :
    nextHas (step { fresh with host := [.resetDuring 1#32 1] }) (fun t => decide
      (t.trace = [.sinkCfg 4#8 5000#16 1#8 0#4] ∧ t.life = .uninitialized ∧ t.period = 0#16)) = true := by decide +kernel

/-! ### Witnesses: a state and operands that meet the hypotheses of each statement, clause by clause -/

theorem ready_inv : Inv ready :=
  ⟨⟨by decide, by decide, by decide, by decide⟩, rfl, by decide, by decide +kernel⟩

theorem readyFast_inv : Inv readyFast :=
  ⟨⟨by decide, by decide, by decide, by decide⟩, rfl, by decide, by decide +kernel⟩

theorem readyBack_inv : Inv readyBack :=
  ⟨⟨by decide, by decide, by decide, by decide⟩, rfl, by decide, by decide +kernel⟩

theorem witness_EveryWordIsACommandOrIllegal :
    (∃ s : State, s.host = cmdWrite 0#32 :: [] ∧ s.busy = false ∧ decode 0#32 = .illegal .illegalOpcode) ∧
    (∃ s : State, s.host = cmdWrite 0x10#32 :: [] ∧ s.busy = false ∧ decode 0x10#32 = .illegal .reservedBits) :=
  ⟨⟨{ fresh with host := [cmdWrite 0#32] }, rfl, rfl, by decide⟩,
    ⟨{ fresh with host := [cmdWrite 0x10#32] }, rfl, rfl, by decide⟩⟩

theorem witness_StepRunsTheDecodedCommand :
    ∃ s : State, s.host = cmdWrite 10#32 :: [] ∧ s.busy = false ∧ decode 10#32 = .command .teardown :=
  ⟨{ fresh with host := [cmdWrite 10#32] }, rfl, rfl, by decide⟩

theorem witness_PlacedWordIsRunByTheNextStep :
    decodeTableWord 32 1 = some .init ∧ decodeTableWord 32 10 = some .teardown := by decide

theorem witness_StatusRegisterLayout : ∃ s : State, s.host = .access (.write .word 0x08#6 0xFFFFFFFF#32) :: [] :=
  ⟨{ fresh with host := [.access (.write .word 0x08#6 0xFFFFFFFF#32)] }, rfl⟩

/-- Also of RecordedHostFaultIsNeverCleared, whose state has a recorded fault. -/
theorem witness_steps :
    (∃ t, step ready = .next t) ∧ (∃ t, step { ready with hostFault := true, host := [.reset] } = .next t) :=
  ⟨⟨_, rfl⟩, ⟨_, rfl⟩⟩

theorem witness_MirrorRegistersShowTheState :
    (∃ s : State, (0x00#6).toNat % 4 = 0 ∧ s.host = .access (.read .word 0x00#6) :: []) ∧
    (∃ s : State, (0x3C#6).toNat % 4 = 0 ∧ s.host = .access (.read .word 0x3C#6) :: []) :=
  ⟨⟨{ fresh with host := [.access (.read .word 0x00#6)] }, by decide, rfl⟩,
    ⟨{ fresh with host := [.access (.read .word 0x3C#6)] }, by decide, rfl⟩⟩

theorem witness_ReservedAndReadOnlyOffsets :
    (∃ s : State, (0x08#6).toNat % 4 = 0 ∧ 0x08 ≤ (0x08#6).toNat ∧ s.host = .access (.write .word 0x08#6 1#32) :: []) ∧
    (∃ s : State, (0x3C#6).toNat % 4 = 0 ∧ 0x08 ≤ (0x3C#6).toNat ∧ s.host = .access (.write .word 0x3C#6 1#32) :: []) ∧
    (∃ s : State, s.busy = true ∧ s.host = cmdWrite 1#32 :: []) ∧
    (∃ s : State, s.busy = true ∧ s.host = argWrite 1#32 :: []) :=
  ⟨⟨{ fresh with host := [.access (.write .word 0x08#6 1#32)] }, by decide, by decide, rfl⟩,
    ⟨{ fresh with host := [.access (.write .word 0x3C#6 1#32)] }, by decide, by decide, rfl⟩,
    ⟨{ fresh with busy := true, host := [cmdWrite 1#32] }, rfl, rfl⟩,
    ⟨{ fresh with busy := true, host := [argWrite 1#32] }, rfl, rfl⟩⟩

theorem witness_UnadmittedAccessIsABusError :
    (∃ s : State, (AccessWidth.double ≠ .word ∨ (0x00#6).toNat % 4 ≠ 0) ∧
      s.host = .access (.read .double 0x00#6) :: []) ∧
    (∃ s : State, (AccessWidth.word ≠ .word ∨ (0x3F#6).toNat % 4 ≠ 0) ∧
      s.host = .access (.write .word 0x3F#6 1#32) :: []) :=
  ⟨⟨{ fresh with host := [.access (.read .double 0x00#6)] }, by decide, rfl⟩,
    ⟨{ fresh with host := [.access (.write .word 0x3F#6 1#32)] }, by decide, rfl⟩⟩

theorem witness_WriteDuringACommandIsAFault :
    (∃ s : State, s.host = .overrun 1#32 false 2#32 :: []) ∧ (∃ s : State, s.host = .overrun 0#32 true 0#32 :: []) :=
  ⟨⟨{ fresh with host := [.overrun 1#32 false 2#32] }, rfl⟩, ⟨{ fresh with host := [.overrun 0#32 true 0#32] }, rfl⟩⟩

theorem witness_ArgumentRegister :
    (∃ s : State, s.host = argWrite 0xFFFFFFFF#32 :: [] ∧ s.busy = false) ∧
    (∃ t, exec .setSpeed ready = .next t) ∧
    (Instr.init ≠ .setSpeed ∧ Instr.init ≠ .setFrequency ∧ Instr.init ≠ .setDecayMode ∧
      ∃ t, exec .init fresh = .next t) :=
  ⟨⟨{ fresh with host := [argWrite 0xFFFFFFFF#32] }, rfl, rfl⟩, ⟨_, rfl⟩, by decide, by decide, by decide, ⟨_, rfl⟩⟩

theorem witness_ResetGivesTheResetValues : ∃ s : State, s.host = .reset :: [] ∧ s.life = .tornDown :=
  ⟨{ torn with host := [.reset] }, rfl, rfl⟩

theorem witness_ResetDuringACommandAbandonsIt :
    ready.busy = false ∧ ∃ d, step { ready with host := cmdWrite 0x1#32 :: [] } = .next d := ⟨rfl, ⟨_, rfl⟩⟩

theorem witness_InitCommand :
    torn.life = .tornDown ∧
    ((badClock ready).life ≠ .tornDown ∧
      factorize (badClock ready).cfg.maxPwmPeriod (badClock ready).cfg.defaultFreq.toNat
        (sampleClock (badClock ready)).toNat = none) ∧
    (fresh.life ≠ .tornDown ∧
      factorize fresh.cfg.maxPwmPeriod fresh.cfg.defaultFreq.toNat (sampleClock fresh).toNat = some (5000, 16) ∧
      (5000#16 : Level) = (if fresh.decay = .slow then BitVec.ofNat 16 5000 else 0#16)) ∧
    (readyFast.life ≠ .tornDown ∧
      factorize readyFast.cfg.maxPwmPeriod readyFast.cfg.defaultFreq.toNat (sampleClock readyFast).toNat
        = some (5000, 16) ∧
      (0#16 : Level) = (if readyFast.decay = .slow then BitVec.ofNat 16 5000 else 0#16)) := by decide +kernel

theorem witness_TeardownCommand : torn.life = .tornDown ∧ fresh.life ≠ .tornDown ∧ ready.life ≠ .tornDown := by decide

/-- The three lifecycle states, for every statement with one clause for each; and the operand clause of SET_SPEED at its
boundaries. -/
theorem witness_SetSpeedCommand :
    torn.life = .tornDown ∧ fresh.life = .uninitialized ∧
    (ready.life = .ready ∧ (65536 : Int) = max (-65536) (min 65536 (0x7FFFFFFF#32 : Word).toInt) ∧
      (5000#16, 0#16) = dutyMap 65536 ready.period ready.decay) ∧
    (ready.life = .ready ∧ (-65536 : Int) = max (-65536) (min 65536 (0x80000000#32 : Word).toInt) ∧
      (0#16, 5000#16) = dutyMap (-65536) ready.period ready.decay) := by decide +kernel

theorem witness_SetDecayModeCommand :
    torn.life = .tornDown ∧ fresh.life = .uninitialized ∧
    (ready.life = .ready ∧ 2 ≤ (2#32 : Word).toNat ∧ 2 ≤ (0xFFFFFFFF#32 : Word).toNat) ∧
    (ready.life = .ready ∧ (0#32 : Word).toNat = (match Decay.fast with | .fast => 0 | .slow => 1) ∧
      (2500#16, 0#16) =
        (if ready.enabled = true then dutyMap ready.speed.toInt ready.period .fast else (0#16, 0#16))) ∧
    (disabled.life = .ready ∧ (1#32 : Word).toNat = (match Decay.slow with | .fast => 0 | .slow => 1) ∧
      (0#16, 0#16) =
        (if disabled.enabled = true then dutyMap disabled.speed.toInt disabled.period .slow else (0#16, 0#16))) := by
  decide +kernel

theorem witness_StopCommand :
    torn.life = .tornDown ∧ fresh.life = .uninitialized ∧
    (disabled.life = .ready ∧ 5000#16 = (if disabled.decay = .slow then disabled.period else 0#16)) ∧
    (readyFast.life = .ready ∧ 0#16 = (if readyFast.decay = .slow then readyFast.period else 0#16)) ∧
    ∃ t, exec .stop ready = .next t := ⟨by decide, by decide, by decide, by decide, ⟨_, rfl⟩⟩

theorem witness_DisableCommand : torn.life = .tornDown ∧ fresh.life = .uninitialized ∧ ready.life = .ready := by decide

/-- The failing clause, and the succeeding one where the period grows (V-F1), where it shrinks (V-F2), with the motor
disabled (V-F12) and with a shared slice (V-F10). -/
theorem witness_SetFrequencyCommand :
    torn.life = .tornDown ∧ fresh.life = .uninitialized ∧
    (ready.life = .ready ∧ factorize ready.cfg.maxPwmPeriod (8#32 : Word).toNat (sampleClock ready).toNat = none) ∧
    (ready.life = .ready ∧
      factorize ready.cfg.maxPwmPeriod (16000#32 : Word).toNat (sampleClock ready).toNat = some (62500, 32) ∧
      (62500#16, 31250#16) =
        (if ready.enabled = true then dutyMap ready.speed.toInt (BitVec.ofNat 16 62500) ready.decay else (0#16, 0#16)) ∧
      ready.period.toNat < 62500) ∧
    (readySlow.life = .ready ∧
      factorize readySlow.cfg.maxPwmPeriod (400000#32 : Word).toNat (sampleClock readySlow).toNat = some (5000, 16) ∧
      ¬ readySlow.period.toNat < 5000) ∧
    (disabled.life = .ready ∧
      factorize disabled.cfg.maxPwmPeriod (16000#32 : Word).toNat (sampleClock disabled).toNat = some (62500, 32) ∧
      (0#16, 0#16) =
        (if disabled.enabled = true then dutyMap disabled.speed.toInt (BitVec.ofNat 16 62500) disabled.decay
        else (0#16, 0#16))) ∧
    (({ ready with cfg := sharedConfig } : State).life = .ready ∧
      factorize sharedConfig.maxPwmPeriod (480000#32 : Word).toNat (sampleClock ready).toNat = some (3600, 18) ∧
      sharedConfig.sharedSlice = true) := by decide +kernel

theorem witness_QueryCommands :
    (torn.life = .tornDown ∧ (Instr.getSpeed = .getSpeed ∨ Instr.getSpeed = .getFrequency ∨ Instr.getSpeed = .getDecayMode)) ∧
    fresh.life ≠ .tornDown ∧ ready.life ≠ .tornDown := by decide

theorem witness_FailingCommandIsAllOrNothing :
    (∃ t, exec .setSpeed fresh = .next t ∧ t.result ≠ .ok ∧ t.result ≠ .infeasibleFrequency) ∧
    (∃ t, exec .init (badClock fresh) = .next t ∧ t.result = .infeasibleFrequency) ∧
    (∃ s t : State, s.host = cmdWrite 0#32 :: [] ∧ s.busy = false ∧ step s = .next t ∧ t.result = .illegalCommand) :=
  ⟨⟨_, rfl, by decide⟩, ⟨_, rfl, by decide +kernel⟩, ⟨{ fresh with host := [cmdWrite 0#32] }, _, rfl, rfl, rfl, rfl⟩⟩

theorem witness_ResultCodePriority :
    torn.life = .tornDown ∧
    ∃ s : State, s.host = cmdWrite 0xF#32 :: [] ∧ s.busy = false ∧ decode 0xF#32 = .illegal .illegalOpcode :=
  ⟨rfl, ⟨{ torn with host := [cmdWrite 0xF#32] }, rfl, rfl, by decide⟩⟩

theorem witness_LifecycleTransitions :
    (∃ t, exec .stop ready = .next t ∧ Instr.stop ≠ .init ∧ Instr.stop ≠ .teardown) ∧
    (∃ t, exec .init fresh = .next t ∧ fresh.life ≠ .tornDown ∧ t.result = .ok) ∧
    (∃ t, exec .teardown ready = .next t) ∧
    (∃ s t : State, step s = .next t ∧ t.life ≠ s.life) ∧
    (∃ t, step torn = .next t ∧ torn.life = .tornDown ∧
      ∀ (e : HostEvent) (es : List HostEvent), torn.host = e :: es → isReset e = false) :=
  ⟨⟨_, rfl, by decide, by decide⟩, ⟨_, rfl, by decide, by decide +kernel⟩, ⟨_, rfl⟩,
    ⟨{ torn with host := [.reset] }, _, rfl, by decide⟩, ⟨_, rfl, rfl, fun e es h => by cases h⟩⟩

/-- For the statements whose one hypothesis is that a command answers a next state (EnabledHasItsWriters,
StoredValuesHaveTheirWriters, ResultRegisterHasItsWriters, LevelShadowsFollowTheTrace, TraceOnlyGrows,
ClockIsSampledOnlyToFactorize): the commands that succeed, with what they write. -/
theorem witness_successful_commands :
    (∃ t, exec .init fresh = .next t ∧ t.result = .ok ∧ t.enabled = true) ∧
    (∃ t, exec .setFrequency { ready with arg := 16000#32 } = .next t ∧ t.result = .ok ∧ t.freq = 16000#32) ∧
    (∃ t, exec .setDecayMode ready = .next t ∧ t.result = .ok ∧ t.decay = .fast) ∧
    (∃ t, exec .setSpeed { ready with arg := 0x80000000#32 } = .next t ∧ t.result = .ok ∧ t.speed.toInt = -65536) ∧
    (∃ t, exec .stop ready = .next t ∧ t.result = .ok ∧ t.speed.toInt = 0) ∧
    (∃ t, exec .teardown ready = .next t ∧ t.result = .ok ∧ t.speed.toInt = 32768) ∧
    (∃ t, exec .disable ready = .next t ∧ t.result = .ok ∧ t.enabled = false) ∧
    (∃ t, exec .getSpeed ready = .next t ∧ t.result = .ok ∧ t.resultReg = 0x00008000#32) ∧
    (∃ t, exec .init State.reset = .next t) :=
  ⟨⟨_, rfl, by decide +kernel⟩, ⟨_, rfl, by decide +kernel⟩, ⟨_, rfl, by decide +kernel⟩, ⟨_, rfl, by decide +kernel⟩,
    ⟨_, rfl, by decide +kernel⟩, ⟨_, rfl, by decide⟩, ⟨_, rfl, by decide⟩, ⟨_, rfl, by decide⟩, ⟨_, rfl⟩⟩

theorem witness_ResultRegisterHasItsWriters :
    ∃ s : State, s.host = .access (.write .word 0x0C#6 1#32) :: [] :=
  ⟨{ fresh with host := [.access (.write .word 0x0C#6 1#32)] }, rfl⟩

theorem witness_ClockIsSampledOnlyToFactorize :
    (fresh.life ≠ .tornDown ∧ fresh.clockIn = 125000000#32 :: [125000000#32]) ∧
    (State.reset.life ≠ .tornDown ∧ State.reset.clockIn = []) := by decide

theorem witness_DisabledMotorStaysNonDriving :
    ∃ t, exec .setFrequency { disabled with arg := 16000#32 } = .next t ∧ disabled.enabled = false ∧
      Instr.setFrequency ≠ .init ∧ Instr.setFrequency ≠ .setSpeed ∧ Instr.setFrequency ≠ .stop ∧
      newTxns disabled t ≠ [] := ⟨_, rfl, by decide +kernel⟩

theorem witness_StepKeepsTheInvariant :
    ∃ s t : State, Inv s ∧ step s = .next t ∧ s.life = .ready ∧ t.life = .tornDown :=
  ⟨{ ready with host := [cmdWrite 0xA#32] }, _,
    ⟨⟨by decide, by decide, by decide, by decide⟩, rfl, by decide, by decide +kernel⟩, rfl, rfl, rfl⟩

/-- A run from reset, one step long: INIT makes the block ready, and changes the period. -/
theorem witness_ReachableStatesKeepTheirBounds :
    (∃ t, exec .init fresh = .next t ∧ t.period ≠ fresh.period) ∧
    ∃ t, Sys2Proof.core.run 1
      { State.resetOf Config.vectorInstance with host := [cmdWrite 1#32], clockIn := [125000000#32] } = .next t ∧
      t.life = .ready ∧ t.enabled = true := ⟨⟨_, rfl, by decide +kernel⟩, ⟨_, rfl, by decide +kernel⟩⟩

theorem witness_PinsAreReleasedAtMostOncePerReset :
    (∃ s t : State, (∀ e ∈ s.host, isReset e = false) ∧ Sys2Proof.core.run 1 s = .next t ∧
      (newTxns s t).count (.pinRelease 4#8) = 1) ∧
    (∃ s t : State, s.life = .tornDown ∧ (∀ e ∈ s.host, isReset e = false) ∧ Sys2Proof.core.run 1 s = .next t ∧
      t.result = .tornDown) :=
  ⟨⟨{ ready with host := [cmdWrite 0xA#32] }, _, by decide, rfl, by decide⟩,
    ⟨{ torn with host := [cmdWrite 0xA#32] }, _, rfl, by decide, rfl, by decide⟩⟩

theorem slowConfig_infeasible (c : Nat) : factorize slowConfig.maxPwmPeriod slowConfig.defaultFreq.toNat c = none := by
  simp [factorize, slowConfig]

/-- Every sample from `clockIn`, with R254's clock in force (C = 1, a default of 25 kHz); and a free draw taken. -/
theorem witness_InfeasibleDefaultNeverBecomesReady :
    (∃ s t : State, s.life ≠ .ready ∧ Sys2Proof.core.run 1 s = .next t ∧
      (∀ used : List Word, s.clockIn = used ++ t.clockIn →
        ∀ c ∈ used, factorize s.cfg.maxPwmPeriod s.cfg.defaultFreq.toNat c.toNat = none) ∧
      (∀ k : Nat, s.draws ≤ k → k < t.draws →
        factorize s.cfg.maxPwmPeriod s.cfg.defaultFreq.toNat (Config.clockDraw k).toNat = none) ∧
      s.clockIn = [1#32] ∧ s.cfg = Config.vectorInstance ∧ t.result = .infeasibleFrequency ∧ t.draws = s.draws) ∧
    (∃ s t : State, s.life ≠ .ready ∧ Sys2Proof.core.run 1 s = .next t ∧
      (∀ used : List Word, s.clockIn = used ++ t.clockIn →
        ∀ c ∈ used, factorize s.cfg.maxPwmPeriod s.cfg.defaultFreq.toNat c.toNat = none) ∧
      (∀ k : Nat, s.draws ≤ k → k < t.draws →
        factorize s.cfg.maxPwmPeriod s.cfg.defaultFreq.toNat (Config.clockDraw k).toNat = none) ∧
      t.draws = s.draws + 1) := by
  refine ⟨⟨{ badClock fresh with host := [cmdWrite 1#32] }, _, by decide, rfl, ?_, ?_, rfl, rfl, by decide +kernel,
      by decide +kernel⟩,
    ⟨{ State.resetOf slowConfig with host := [cmdWrite 1#32] }, _, by decide, rfl,
      fun _ _ c _ => slowConfig_infeasible c.toNat, fun k _ _ => slowConfig_infeasible (Config.clockDraw k).toNat, rfl⟩⟩
  · intro used hu c hc
    have h : c ∈ [1#32] := (show [1#32] = used ++ _ from hu) ▸ List.mem_append_left _ hc
    rw [List.mem_singleton.1 h]
    decide
  · intro k _ hk
    exact absurd hk (Nat.not_lt_zero k)

/-- Both channels, growing and shrinking. -/
theorem witness_PinnedChannelIsGlitchFree :
    (∃ s t : State, Inv s ∧ s.life = .ready ∧ s.enabled = true ∧ s.decay = .slow ∧ exec .setFrequency s = .next t ∧
      (s.cfg.pinPos = s.cfg.pinPos ∧ s.levelPos = s.period ∧ t.levelPos = t.period) ∧ s.period < t.period) ∧
    (∃ s t : State, Inv s ∧ s.life = .ready ∧ s.enabled = true ∧ s.decay = .slow ∧ exec .setFrequency s = .next t ∧
      (s.cfg.pinNeg = s.cfg.pinNeg ∧ s.levelNeg = s.period ∧ t.levelNeg = t.period) ∧ t.period < s.period) :=
  ⟨⟨{ ready with arg := 16000#32 }, _,
      ⟨⟨by decide, by decide, by decide, by decide⟩, rfl, by decide, by decide +kernel⟩, rfl, rfl, rfl, rfl,
      by decide +kernel⟩,
    ⟨{ readyBack with arg := 480000#32 }, _,
      ⟨⟨by decide, by decide, by decide, by decide⟩, rfl, by decide, by decide +kernel⟩, rfl, rfl, rfl, rfl,
      by decide +kernel⟩⟩

theorem witness_DividerSplitAndWrap :
    16 ≤ (16#12 : Div16).toNat ∧ 16 ≤ (4095#12 : Div16).toNat ∧ 1 ≤ (1#16 : Level).toNat ∧ 1 ≤ (65535#16 : Level).toNat := by
  decide

theorem witness_FactorizerResultRanges :
    (1 ≤ 1 ∧ 1 ≤ 65535 ∧ factorize 1 16 2 = some (1, 32)) ∧
    (1 ≤ 65535 ∧ 65535 ≤ 65535 ∧ factorize 65535 400000 125000000 = some (5000, 16)) := by decide +kernel

theorem witness_FactorizerAccuracy :
    factorize 65535 480000 125000000 = some (3600, 18) ∧ 66667 = (512 * 125000000 + 480000) / (2 * 480000) := by
  decide +kernel

theorem witness_FactorizerLoopTerminates : nextFactor 65535 80000 1 = some 5 ∧ 1 ≤ 1 ∧ 1 ≤ 65535 := by decide

theorem witness_FactorizerFailureSet : 16 ≤ 16 ∧ 16 ≤ 8 * 2 := by decide

theorem witness_FactorizerRealisationIsExact : 16 ≤ (16#32 : Word).toNat ∧ 16 ≤ (0xFFFFFFFF#32 : Word).toNat := by decide

/-- The three duty-mapper statements, at both ends and below the least duty. -/
theorem witness_duty_mapper :
    ((-65536 : Int) ≤ 65536 ∧ (65536 : Int) ≤ 65536 ∧
      (65535 : Int) = Int.sign 65536 * (((Int.natAbs 65536 * (65535#16 : Level).toNat + 32768) / 65536 : Nat) : Int) ∧
      (0 : Int) ≤ 65535) ∧
    ((-65536 : Int) ≤ -65536 ∧ (-65536 : Int) ≤ 65536 ∧
      (-65535 : Int) = Int.sign (-65536) * (((Int.natAbs (-65536) * (65535#16 : Level).toNat + 32768) / 65536 : Nat) : Int) ∧
      (-65535 : Int) < 0) ∧
    ((0 : Int) = Int.sign 1 * (((Int.natAbs 1 * (5000#16 : Level).toNat + 32768) / 65536 : Nat) : Int) ∧
      Int.natAbs 1 * (5000#16 : Level).toNat < 32768) := by decide +kernel

/-- A literal for each clause of both conversions: 1.5 and 32768 (too large), −32768 and −32769; 25000 and 268435456 (too
large), −1. -/
theorem witness_AssemblerConvertsLiterals :
    (98304 = (2 * (15 * 65536) + 10 ^ 1) / (2 * 10 ^ 1) ∧ 98304 < 2 ^ 31) ∧
    (2147483648 = (2 * (32768 * 65536) + 10 ^ 0) / (2 * 10 ^ 0) ∧ 2 ^ 31 ≤ 2147483648 ∧ 2147483648 ≤ 2 ^ 31) ∧
    (2147549184 = (2 * (32769 * 65536) + 10 ^ 0) / (2 * 10 ^ 0) ∧ 2 ^ 31 < 2147549184) ∧
    (400000 = (2 * (25000 * 16) + 10 ^ 0) / (2 * 10 ^ 0) ∧ 400000 < 2 ^ 32) ∧
    (4294967296 = (2 * (268435456 * 16) + 10 ^ 0) / (2 * 10 ^ 0) ∧ 2 ^ 32 ≤ 4294967296) ∧
    (16 = (2 * (1 * 16) + 10 ^ 0) / (2 * 10 ^ 0) ∧ 16 ≠ 0) ∧ 0xFFFFFFFF < 2 ^ 32 := by decide

theorem witness_AssembledLineRunsItsCommand :
    ready.busy = false ∧
    (∃ t, exec .setSpeed { ready with arg := 0x00050000#32, host := statusRead :: [], busy := true } = .next t) ∧
    (∃ t, exec .init { ready with arg := ready.arg, host := statusRead :: [], busy := true } = .next t) :=
  ⟨rfl, ⟨_, rfl⟩, ⟨_, rfl⟩⟩

end Sys2Proof.Tests
end

section
/-! SUPPORT. One step, said once: what each event of the host makes of the step, and the three kinds of step there are. -/

namespace Sys2Proof.Machine

open Sys2Proof

/-! ### The step of a given event -/

/-- The step takes the event at the head of the host's list (R16). -/
theorem step_of_event {s : State} {e : HostEvent} {es : List HostEvent} (h : s.host = e :: es) :
    step s = handleEvent e { s with host := es } := by
  simp only [step, nextEvent, h]

theorem handleEvent_cmdWrite_idle (w : Word) {s : State} (hb : s.busy = false) :
    handleEvent (cmdWrite w) s = startCommand w s := by
  simp [handleEvent, cmdWrite, hostAccess, hostWrite, admitted, hb]

theorem handleEvent_cmdWrite_busy (w : Word) {s : State} (hb : s.busy = true) :
    handleEvent (cmdWrite w) s = .fault .writeWhileBusy := by
  simp [handleEvent, cmdWrite, hostAccess, hostWrite, admitted, hb]

theorem handleEvent_argWrite_idle (v : Word) {s : State} (hb : s.busy = false) :
    handleEvent (argWrite v) s = .next { s with arg := v } := by
  simp [handleEvent, argWrite, hostAccess, hostWrite, admitted, hb]

theorem handleEvent_argWrite_busy (v : Word) {s : State} (hb : s.busy = true) :
    handleEvent (argWrite v) s = .fault .writeWhileBusy := by
  simp [handleEvent, argWrite, hostAccess, hostWrite, admitted, hb]

theorem admitted_word {offset : BitVec 6} (h : offset.toNat % 4 = 0) : admitted .word offset = true := by
  simp [admitted, h]

/-- R40: an admitted write above `ARG` is ignored. -/
theorem handleEvent_write_ignored {offset : BitVec 6} (v : Word) (s : State) (ha : offset.toNat % 4 = 0)
    (ho : 0x08 ≤ offset.toNat) : handleEvent (.access (.write .word offset v)) s = .next s := by
  simp only [handleEvent, hostAccess, hostWrite, admitted_word ha, if_true]
  split
  · omega
  · omega
  · rfl

/-- R54: an admitted read returns the register and changes nothing else. -/
theorem handleEvent_read {offset : BitVec 6} (s : State) (ha : offset.toNat % 4 = 0) :
    handleEvent (.access (.read .word offset)) s = .next { s with replies := s.replies ++ [.data (readReg s offset)] } := by
  simp only [handleEvent, hostAccess, hostRead, admitted_word ha, if_true]

theorem startCommand_of_decode {w : Word} {i : Instr} (s : State) (h : decode w = .command i) :
    startCommand w s = exec i { s with busy := true } := by
  simp only [startCommand, h]

/-! ### Decoding, read backwards (R70 to R72) -/

theorem word_eq_fields (w : Word) : rsvdField w ++ opcField w = w := by
  unfold rsvdField opcField
  rw [BitVec.extractLsb'_append_extractLsb'_eq_extractLsb' (by rfl)]
  exact BitVec.extractLsb'_eq_self

theorem eq_opcode_of_opcodeCommand {opc : BitVec 4} {i : Instr} (h : opcodeCommand opc = .command i) :
    opc = opcode i := by
  unfold opcodeCommand at h
  split at h <;> cases h <;> exact BitVec.eq_of_toNat_eq ‹_›

/-- A word that decodes to a command is that command's word. -/
theorem eq_encode_of_decode {w : Word} {i : Instr} (h : decode w = .command i) : w = encode i := by
  unfold decode at h
  split at h
  · cases h
  · rename_i hr
    calc w = rsvdField w ++ opcField w := (word_eq_fields w).symm
      _ = 0#28 ++ opcode i := by rw [not_not.1 hr, eq_opcode_of_opcodeCommand h]; rfl

theorem wordOfLanes_laneOfWord (w : Word) :
    wordOfLanes (laneOfWord w 0) (laneOfWord w 1) (laneOfWord w 2) (laneOfWord w 3) = w := by
  simp only [wordOfLanes, laneOfWord]
  rw [BitVec.extractLsb'_append_extractLsb'_eq_extractLsb' (by rfl),
    BitVec.extractLsb'_append_extractLsb'_eq_extractLsb' (by rfl),
    BitVec.extractLsb'_append_extractLsb'_eq_extractLsb' (by rfl)]
  exact BitVec.extractLsb'_eq_self

/-- A table word that is a command fits its bits and decodes to that command. -/
theorem decodeTableWord_eq_some {nbits w : Nat} {i : Instr} (h : decodeTableWord nbits w = some i) :
    w < 2 ^ nbits ∧ decode (BitVec.ofNat 32 w) = .command i := by
  unfold decodeTableWord at h
  split at h
  · rename_i hw
    refine ⟨hw.1, ?_⟩
    simp only [lanesOfWord, decodeBytes, wordOfLanes_laneOfWord] at h
    split at h <;> simp_all
  · cases h

/-! ### The kinds of step -/

/-- A write that answers a next state either writes a command word to `CMD` or touches no field of the block but `ARG`. -/
theorem hostWrite_kinds {width : AccessWidth} {offset : BitVec 6} {v : Word} {s t : State}
    (h : hostWrite width offset v s = .next t) :
    (t = { s with arg := t.arg, replies := t.replies, hostFault := t.hostFault }) ∨
    (width = .word ∧ offset = 0x00#6 ∧ s.busy = false ∧ startCommand v s = .next t) := by
  rcases hostWrite_cases h with ⟨-, rfl⟩ | ⟨ha, ho, hb, hs⟩ | ⟨-, -, -, rfl⟩ | ⟨-, -, -, rfl⟩
  · exact .inl rfl
  · simp only [admitted, Bool.and_eq_true, decide_eq_true_eq] at ha
    exact .inr ⟨ha.1, BitVec.eq_of_toNat_eq ho, hb, hs⟩
  · exact .inl rfl
  · exact .inl rfl

/-- Every step is one of three: it leaves the block as it was but for `ARG`, it runs a command word, or it resets the
block (R15, R16, R250). -/
theorem step_kinds {s t : State} (h : step s = .next t) :
    (t = { s with arg := t.arg, host := t.host, replies := t.replies, hostFault := t.hostFault }) ∨
    (∃ w es, s.host = cmdWrite w :: es ∧ s.busy = false ∧ startCommand w { s with host := es } = .next t) ∨
    (∃ e es u, s.host = e :: es ∧ isReset e = true ∧ u.cfg = s.cfg ∧ t = { resetBlock u with trace := t.trace }) := by
  rcases step_cases h with ⟨-, rfl⟩ | ⟨width, offset, es, -, hr⟩ | ⟨width, offset, v, es, hh, hw⟩ | ⟨es, hh, rfl⟩ |
    ⟨w, k, es, d, hh, -, hd, rfl⟩
  · exact .inl rfl
  · rcases hostRead_cases hr with ⟨-, rfl⟩ | ⟨-, rfl⟩ <;> exact .inl rfl
  · rcases hostWrite_kinds hw with ht | ⟨rfl, rfl, hb, hs⟩
    · exact .inl (ht.trans (by rw [ht]))
    · exact .inr (.inl ⟨v, es, hh, hb, hs⟩)
  · exact .inr (.inr ⟨_, es, { s with host := es }, hh, rfl, rfl, rfl⟩)
  · exact .inr (.inr ⟨_, es, d, hh, rfl, (startCommand_outside hd).1, rfl⟩)

/-- No step changes the configuration (R6). -/
theorem step_cfg {s t : State} (h : step s = .next t) : t.cfg = s.cfg := by
  rcases step_kinds h with ht | ⟨w, es, -, -, hs⟩ | ⟨e, es, u, -, -, hu, ht⟩
  · rw [ht]
  · exact (startCommand_outside hs).1
  · rw [ht]; exact hu

end Sys2Proof.Machine
end

section
/-! SUPPORT. Every command's outcome in one form: it is rejected with a result code, or it prepares a new state, emits its
transactions from there and ends with OK. -/

namespace Sys2Proof.Machine

open Sys2Proof

/-- `Prepares s i n ts`: from `s`, the command `i` succeeds, with `n` the state it has built before it emits the
transactions `ts` (R140, R146, R161 to R168, R180, R200 to R204). -/
inductive Prepares (s : State) : Instr → State → List Txn → Prop where
  | init (p : Level) (d : Div16) (hl : s.life ≠ .tornDown)
      (hf : factorizeWord s.cfg.maxPwmPeriod s.cfg.defaultFreq (sampleClock s) = some (p, d)) :
      Prepares s .init (initState p d (afterSample s)) (initTxns (initState p d (afterSample s)))
  | setSpeed (hl : s.life = .ready) :
      Prepares s .setSpeed { s with speed := clampWord s.arg, enabled := true }
        (levelTxns s.cfg (outputLevels { s with speed := clampWord s.arg, enabled := true }))
  | setFrequency (p : Level) (d : Div16) (hl : s.life = .ready)
      (hf : factorizeWord s.cfg.maxPwmPeriod s.arg (sampleClock s) = some (p, d)) :
      Prepares s .setFrequency (frequencyState p d (afterSample s))
        (frequencyTxns s.period (frequencyState p d (afterSample s)))
  | setDecayMode (m : Decay) (hl : s.life = .ready) (hm : decayOperand s.arg = some m) :
      Prepares s .setDecayMode { s with decay := m } (levelTxns s.cfg (outputLevels { s with decay := m }))
  | stop (hl : s.life = .ready) :
      Prepares s .stop { s with speed := 0, enabled := true }
        (levelTxns s.cfg (outputLevels { s with speed := 0, enabled := true }))
  | disable (hl : s.life = .ready) :
      Prepares s .disable { s with speed := 0, enabled := false }
        (levelTxns s.cfg (outputLevels { s with speed := 0, enabled := false }))
  | query (i : Instr) (hi : i = .getSpeed ∨ i = .getFrequency ∨ i = .getDecayMode) (hl : s.life ≠ .tornDown) :
      Prepares s i { s with resultReg := queryValue i s } []
  | teardown (hl : s.life ≠ .tornDown) : Prepares s .teardown { s with life := .tornDown } (releaseTxns s.cfg)

/-- The commands that write the two levels (R27, R128). -/
def writesLevels : Instr → Bool
  | .init => true
  | .setSpeed => true
  | .setFrequency => true
  | .setDecayMode => true
  | .stop => true
  | .disable => true
  | .getSpeed => false
  | .getFrequency => false
  | .getDecayMode => false
  | .teardown => false

/-- A command that is rejected: a result code other than OK, and at most a clock sample used up (R221). -/
def Rejects (s t : State) : Prop := ∃ r, r ≠ .ok ∧ (t = finish r s ∨ t = finish r (afterSample s))

/-- A command that succeeds: it ends with OK after the emission it has prepared. -/
def Succeeds (i : Instr) (s t : State) : Prop := ∃ n ts, Prepares s i n ts ∧ t = finish .ok (emitAll ts n)

theorem rejects_finish (s : State) {r : ResultCode} (hr : r ≠ .ok) : Rejects s (finish r s) := ⟨r, hr, .inl rfl⟩

theorem rejects_afterSample (s : State) {r : ResultCode} (hr : r ≠ .ok) : Rejects s (finish r (afterSample s)) :=
  ⟨r, hr, .inr rfl⟩

theorem exec_query_outcome {i : Instr} {s t : State} (hi : i = .getSpeed ∨ i = .getFrequency ∨ i = .getDecayMode)
    (h : exec i s = .next t) : Rejects s t ∨ Succeeds i s t := by
  rcases exec_query_cases hi h with ⟨-, rfl⟩ | ⟨hl, rfl⟩
  · exact .inl (rejects_finish s (by decide))
  · exact .inr ⟨_, _, .query i hi hl, rfl⟩

/-- Every command is rejected or succeeds (R13, R221). -/
theorem exec_outcome {i : Instr} {s t : State} (h : exec i s = .next t) : Rejects s t ∨ Succeeds i s t := by
  cases i with
  | init =>
    rcases exec_init_cases h with ⟨-, rfl⟩ | ⟨-, -, rfl⟩ | ⟨p, d, hl, hf, rfl⟩
    · exact .inl (rejects_finish s (by decide))
    · exact .inl (rejects_afterSample s (by decide))
    · exact .inr ⟨_, _, .init p d hl hf, rfl⟩
  | setSpeed =>
    rcases exec_setSpeed_cases h with ⟨-, rfl⟩ | ⟨-, rfl⟩ | ⟨hl, rfl⟩
    · exact .inl (rejects_finish s (by decide))
    · exact .inl (rejects_finish s (by decide))
    · exact .inr ⟨_, _, .setSpeed hl, rfl⟩
  | setFrequency =>
    rcases exec_setFrequency_cases h with ⟨-, rfl⟩ | ⟨-, rfl⟩ | ⟨-, -, rfl⟩ | ⟨p, d, hl, hf, rfl⟩
    · exact .inl (rejects_finish s (by decide))
    · exact .inl (rejects_finish s (by decide))
    · exact .inl (rejects_afterSample s (by decide))
    · exact .inr ⟨_, _, .setFrequency p d hl hf, rfl⟩
  | setDecayMode =>
    rcases exec_setDecayMode_cases h with ⟨-, rfl⟩ | ⟨-, rfl⟩ | ⟨-, -, rfl⟩ | ⟨m, hl, hm, rfl⟩
    · exact .inl (rejects_finish s (by decide))
    · exact .inl (rejects_finish s (by decide))
    · exact .inl (rejects_finish s (by decide))
    · exact .inr ⟨_, _, .setDecayMode m hl hm, rfl⟩
  | stop =>
    rcases exec_stop_cases h with ⟨-, rfl⟩ | ⟨-, rfl⟩ | ⟨hl, rfl⟩
    · exact .inl (rejects_finish s (by decide))
    · exact .inl (rejects_finish s (by decide))
    · exact .inr ⟨_, _, .stop hl, rfl⟩
  | disable =>
    rcases exec_disable_cases h with ⟨-, rfl⟩ | ⟨-, rfl⟩ | ⟨hl, rfl⟩
    · exact .inl (rejects_finish s (by decide))
    · exact .inl (rejects_finish s (by decide))
    · exact .inr ⟨_, _, .disable hl, (driveLevels_eq { s with speed := 0, enabled := false }).symm⟩
  | getSpeed => exact exec_query_outcome (.inl rfl) h
  | getFrequency => exact exec_query_outcome (.inr (.inl rfl)) h
  | getDecayMode => exact exec_query_outcome (.inr (.inr rfl)) h
  | teardown =>
    rcases exec_teardown_cases h with ⟨-, rfl⟩ | ⟨hl, rfl⟩
    · exact .inl (rejects_finish s (by decide))
    · refine .inr ⟨_, _, .teardown hl, ?_⟩
      rw [emitAll_of_no_level _ _ (releaseTxns_no_level _)]
      rfl

/-- A rejected command writes the result code, which is not OK, and no field of the block beside it (R221). -/
theorem Rejects.frame {s t : State} (h : Rejects s t) :
    t.result ≠ .ok ∧ t = { s with result := t.result, busy := false, clockIn := t.clockIn, draws := t.draws } := by
  obtain ⟨r, hr, rfl | rfl⟩ := h
  · exact ⟨hr, rfl⟩
  · refine ⟨hr, ?_⟩
    conv => lhs; rw [afterSample_eq s]
    rfl

/-- The state a command prepares has the old configuration, shadows and trace: it has emitted nothing yet. -/
theorem Prepares.not_yet_emitted {i : Instr} {s n : State} {ts : List Txn} (h : Prepares s i n ts) :
    n.cfg = s.cfg ∧ n.levelPos = s.levelPos ∧ n.levelNeg = s.levelNeg ∧ n.trace = s.trace := by
  cases h <;> simp

theorem writesLevels_of_query {i : Instr} (hi : i = .getSpeed ∨ i = .getFrequency ∨ i = .getDecayMode) :
    writesLevels i = false := by
  rcases hi with rfl | rfl | rfl <;> rfl

/-- A command that writes levels brings the output levels of its new state into force (R128, R141, R180, R182). -/
theorem Prepares.levels {i : Instr} {s n : State} {ts : List Txn} (h : Prepares s i n ts) (hi : writesLevels i = true) :
    emitAll ts n =
      { n with trace := n.trace ++ ts, levelPos := (outputLevels n).1, levelNeg := (outputLevels n).2 } := by
  cases h with
  | init p d => exact emitAll_initTxns _
  | setFrequency p d => exact emitAll_frequencyTxns _ _
  | setSpeed => exact emitAll_levelTxns _ _ _ rfl
  | setDecayMode => exact emitAll_levelTxns _ _ _ rfl
  | stop => exact emitAll_levelTxns _ _ _ rfl
  | disable => exact emitAll_levelTxns _ _ _ rfl
  | query i hq => simp [writesLevels_of_query hq] at hi
  | teardown => cases hi

/-- In TornDown every command ends with TORN_DOWN and does nothing else (R222). -/
theorem exec_of_tornDown (i : Instr) {s : State} (hl : s.life = .tornDown) : exec i s = .next (finish .tornDown s) := by
  cases i <;>
    simp [exec, execInit, execSetSpeed, execSetFrequency, execSetDecayMode, execStop, execDisable, execGetSpeed,
      execGetFrequency, execGetDecayMode, execTeardown, unlessTornDown, whenReady, hl]

end Sys2Proof.Machine
end

section
/-! The invariant of R41, R25, R182 and R262: it holds after reset and every step keeps it. -/

namespace Sys2Proof.Machine

open Sys2Proof

/-! ### Ranges of the factorizer's results and of the output levels -/

/-- R107: the loop leaves a period in 1..`maxP`. -/
theorem extraction_period_range {maxP : Nat} (f c : Nat) (hmax : 1 ≤ maxP) :
    1 ≤ (extraction maxP f c).2 ∧ (extraction maxP f c).2 ≤ maxP := by
  refine extract_keeps (maxP := maxP) (fun _ p => 1 ≤ p ∧ p ≤ maxP) ?_ maxPasses (startDivisor f c) 1 ⟨le_rfl, hmax⟩
  intro d p k hk hp
  obtain ⟨hfactor, -, hle⟩ := nextFactor_cases hk
  exact ⟨Nat.mul_pos hp.1 (by omega), hle⟩

/-- R107: the ranges of a result, in the widths of `st.period` and `st.div16`. -/
theorem factorizeWord_range {maxP : Nat} {f c : Word} {p : Level} {d : Div16} (hmin : 1 ≤ maxP) (hmax : maxP ≤ 65535)
    (h : factorizeWord maxP f c = some (p, d)) :
    1 ≤ p.toNat ∧ p.toNat ≤ maxP ∧ 16 ≤ d.toNat ∧ d.toNat ≤ 4095 := by
  obtain ⟨P, D, hf, rfl, rfl⟩ := factorizeWord_eq_some h
  obtain ⟨-, -, he, hD, hD'⟩ := factorize_eq_some hf
  have hP := extraction_period_range f.toNat c.toNat hmin
  rw [he] at hP
  simp only [BitVec.toNat_ofNat]
  omega

/-- R126, R127: at a clamped speed both output levels are within the period. -/
theorem outputLevels_le_period {s : State} (h : -65536 ≤ s.speed.toInt ∧ s.speed.toInt ≤ 65536) :
    (outputLevels s).1.toNat ≤ s.period.toNat ∧ (outputLevels s).2.toNat ≤ s.period.toNat := by
  unfold outputLevels
  split
  · obtain ⟨hpos, hneg⟩ := dutyMap_toNat s.period s.decay h.1 h.2
    have hr := steer_range s.decay (signedDuty_natAbs_le (period := s.period.toNat) h.1 h.2)
    omega
  · simp

/-! ### Where the invariant comes from -/

/-- The invariant does not look at the host's registers, at the trace or at what is outside the block. -/
theorem Inv.frame {s t : State} (h : Inv s)
    (ht : t = { s with
      result := t.result, arg := t.arg, resultReg := t.resultReg, trace := t.trace, host := t.host,
      replies := t.replies, clockIn := t.clockIn, draws := t.draws, hostFault := t.hostFault }) : Inv t := by
  rw [ht]
  exact ⟨⟨h.speedClamped, h.timingValid, h.levelsBounded, h.enabledAfterInit⟩, h.idle, h.nothingBeforeInit,
    h.levelsInForce⟩

theorem inv_resetOf (c : Config) : Inv (State.resetOf c) where
  speedClamped := by simp [State.resetOf]
  timingValid := nofun
  levelsBounded := nofun
  enabledAfterInit := nofun
  idle := rfl
  nothingBeforeInit _ := ⟨rfl, rfl, rfl, rfl, rfl⟩
  levelsInForce := nofun

theorem inv_of_tornDown {t : State} (hl : t.life = .tornDown) (hb : t.busy = false)
    (hs : -65536 ≤ t.speed.toInt ∧ t.speed.toInt ≤ 65536) : Inv t where
  speedClamped := hs
  timingValid := by simp [hl]
  levelsBounded := by simp [hl]
  enabledAfterInit _ := .inr hl
  idle := hb
  nothingBeforeInit := by simp [hl]
  levelsInForce := by simp [hl]

/-- A ready block with a clamped speed, a valid timing and its output levels in force has the invariant. -/
theorem inv_of_levels_in_force {t : State} (hl : t.life = .ready) (hb : t.busy = false)
    (hs : -65536 ≤ t.speed.toInt ∧ t.speed.toInt ≤ 65536)
    (ht : 1 ≤ t.period.toNat ∧ t.period.toNat ≤ t.cfg.maxPwmPeriod ∧ 16 ≤ t.div16.toNat ∧ t.div16.toNat ≤ 4095)
    (hlev : (t.levelPos, t.levelNeg) = outputLevels t) : Inv t where
  speedClamped := hs
  timingValid _ := ht
  levelsBounded _ := by
    have h := outputLevels_le_period hs
    rwa [← hlev] at h
  enabledAfterInit _ := .inl hl
  idle := hb
  nothingBeforeInit := by simp [hl]
  levelsInForce _ := hlev

/-! ### Commands -/

/-- A command that writes levels prepares a ready block with a clamped speed and a valid timing. -/
theorem Prepares.ready_with_bounds {i : Instr} {s n : State} {ts : List Txn} (h : Prepares s i n ts)
    (hi : writesLevels i = true) (hs : Inv { s with busy := false }) :
    n.life = .ready ∧ (-65536 ≤ n.speed.toInt ∧ n.speed.toInt ≤ 65536) ∧
    (1 ≤ n.period.toNat ∧ n.period.toNat ≤ n.cfg.maxPwmPeriod ∧ 16 ≤ n.div16.toNat ∧ n.div16.toNat ≤ 4095) := by
  obtain ⟨hmin, hmax⟩ := config_maxPeriod s.cfg
  have hzero : -65536 ≤ (0 : Word).toInt ∧ (0 : Word).toInt ≤ 65536 := by decide
  cases h with
  | init p d hl hf => exact ⟨rfl, hzero, by simpa using factorizeWord_range hmin hmax hf⟩
  | setFrequency p d hl hf =>
    exact ⟨by simpa using hl, by simpa using hs.speedClamped, by simpa using factorizeWord_range hmin hmax hf⟩
  | setSpeed hl => exact ⟨hl, by simpa [clampWord_toInt] using clampSpeed_range s.arg, hs.timingValid hl⟩
  | setDecayMode m hl => exact ⟨hl, hs.speedClamped, hs.timingValid hl⟩
  | stop hl => exact ⟨hl, hzero, hs.timingValid hl⟩
  | disable hl => exact ⟨hl, hzero, hs.timingValid hl⟩
  | query i hq => simp [writesLevels_of_query hq] at hi
  | teardown => cases hi

/-- A command that succeeds keeps the invariant; `BUSY` is set while it runs. -/
theorem Succeeds.keeps_inv {i : Instr} {s t : State} (h : Succeeds i s t) (hs : Inv { s with busy := false }) :
    Inv t := by
  obtain ⟨n, ts, hp, rfl⟩ := h
  by_cases hi : writesLevels i = true
  · obtain ⟨hlife, hspeed, htiming⟩ := hp.ready_with_bounds hi hs
    rw [hp.levels hi]
    exact inv_of_levels_in_force hlife rfl hspeed htiming rfl
  · cases hp with
    | query i hq => exact hs.frame rfl
    | teardown => exact inv_of_tornDown (by simp) rfl (by simpa using hs.speedClamped)
    | _ => exact absurd rfl hi

/-- Every command keeps the invariant (R41). -/
theorem exec_keeps_inv {i : Instr} {s t : State} (hs : Inv { s with busy := false }) (h : exec i s = .next t) :
    Inv t := by
  rcases exec_outcome h with hr | hsucc
  · obtain ⟨-, ht⟩ := hr.frame
    exact hs.frame (ht.trans (by rw [ht]))
  · exact hsucc.keeps_inv hs

/-- Every word written to `CMD` keeps the invariant, the words that are no command too. -/
theorem startCommand_keeps_inv {w : Word} {s t : State} (hs : Inv s) (h : startCommand w s = .next t) : Inv t := by
  have hidle : Inv { s with busy := false } := by
    rw [← hs.idle]
    exact hs
  rcases startCommand_cases h with ⟨i, -, hi⟩ | ⟨r, -, rfl⟩
  · exact exec_keeps_inv (s := { s with busy := true }) hidle hi
  · exact hidle.frame rfl

/-- Settles O37, by the three kinds of step: a step beside the block, a command word, a reset. -/
theorem stepKeepsTheInvariant : Obligations.StepKeepsTheInvariant := by
  unfold Obligations.StepKeepsTheInvariant
  intro s t hs h
  rcases step_kinds h with ht | ⟨w, es, -, -, hw⟩ | ⟨e, es, u, -, -, -, ht⟩
  · exact hs.frame (ht.trans (by rw [ht]))
  · exact startCommand_keeps_inv (hs.frame rfl) hw
  · rw [ht]
    exact (inv_resetOf u.cfg).frame rfl

/-- Settles O36: the reset values meet each clause. -/
theorem invariantHoldsAfterReset : Obligations.InvariantHoldsAfterReset := inv_resetOf

/-- R41's last sentence: a command that changes the period writes levels. -/
theorem Prepares.writesLevels_of_period_ne {i : Instr} {s n : State} {ts : List Txn} (h : Prepares s i n ts)
    (hp : n.period ≠ s.period) : writesLevels i = true := by
  cases h with
  | query => exact absurd rfl hp
  | teardown => exact absurd rfl hp
  | _ => rfl

/-- A command that writes levels emits both output levels of its new state (R128). -/
theorem Prepares.levelTxns_subset {i : Instr} {s n : State} {ts : List Txn} (h : Prepares s i n ts)
    (hi : writesLevels i = true) : levelTxns n.cfg (outputLevels n) ⊆ ts := by
  cases h with
  | init p d =>
    intro t ht
    simp only [initTxns, List.mem_append, ht, true_or, or_true]
  | setFrequency p d =>
    intro t ht
    unfold frequencyTxns
    split <;> simp only [List.mem_append, ht, true_or, or_true]
  | query i hq => simp [writesLevels_of_query hq] at hi
  | teardown => cases hi
  | _ => exact List.Subset.refl _

/-- Settles O38, by the invariant along the run, and by what a successful command that writes the period emits. -/
theorem reachableStatesKeepTheirBounds : Obligations.ReachableStatesKeepTheirBounds := by
  unfold Obligations.ReachableStatesKeepTheirBounds
  refine ⟨fun c events clocks n t hrun => ?_, fun i s t h hperiod => ?_⟩
  · have ht : Inv t := run_keeps stepKeepsTheInvariant ((inv_resetOf c).frame rfl) hrun
    exact ⟨ht.speedClamped, ht.timingValid, ht.levelsBounded, ht.enabledAfterInit⟩
  · rcases exec_outcome h with hr | ⟨n, ts, hp, rfl⟩
    · obtain ⟨-, ht⟩ := hr.frame
      exact absurd (by rw [ht]) hperiod
    · have hi := hp.writesLevels_of_period_ne (by simpa using hperiod)
      have hsub := hp.levelTxns_subset hi
      obtain ⟨hcfg, -, -, htrace⟩ := hp.not_yet_emitted
      rw [hp.levels hi]
      refine ⟨rfl, ?_, ?_⟩
      · simpa [newTxns, htrace, hcfg] using hsub (a := .sinkLevel n.cfg.pinPos (outputLevels n).1) (by simp [levelTxns])
      · simpa [newTxns, htrace, hcfg] using hsub (a := .sinkLevel n.cfg.pinNeg (outputLevels n).2) (by simp [levelTxns])

end Sys2Proof.Machine
end

section
/-! The lifecycle state, `st.enabled`, `RESULT` and the level shadows: which command writes each (R21, R26, R27, R34). -/

namespace Sys2Proof.Machine

open Sys2Proof

/-! ### The lifecycle state (R21) -/

theorem Prepares.life_of_other {i : Instr} {s n : State} {ts : List Txn} (h : Prepares s i n ts) (hinit : i ≠ .init)
    (hteardown : i ≠ .teardown) : n.life = s.life := by
  cases h with
  | init => exact absurd rfl hinit
  | teardown => exact absurd rfl hteardown
  | setFrequency => simp
  | _ => rfl

theorem exec_life_of_other {i : Instr} {s t : State} (h : exec i s = .next t) (hinit : i ≠ .init)
    (hteardown : i ≠ .teardown) : t.life = s.life := by
  rcases exec_outcome h with hr | ⟨n, ts, hp, rfl⟩
  · rw [hr.frame.2]
  · simpa using hp.life_of_other hinit hteardown

/-- A word that changes the lifecycle state is the word of INIT or of TEARDOWN. -/
theorem startCommand_changes_life {w : Word} {s t : State} (h : startCommand w s = .next t) (hne : t.life ≠ s.life) :
    w = 0x00000001#32 ∨ w = 0x0000000A#32 := by
  rcases startCommand_cases h with ⟨i, hd, hi⟩ | ⟨r, -, rfl⟩
  · by_cases hinit : i = .init
    · exact .inl (by rw [eq_encode_of_decode hd, hinit]; rfl)
    · by_cases hteardown : i = .teardown
      · exact .inr (by rw [eq_encode_of_decode hd, hteardown]; rfl)
      · exact absurd (exec_life_of_other hi hinit hteardown) hne
  · exact absurd rfl hne

theorem startCommand_of_tornDown {w : Word} {s t : State} (h : startCommand w s = .next t) (hl : s.life = .tornDown) :
    t.life = .tornDown := by
  rcases startCommand_cases h with ⟨i, -, hi⟩ | ⟨r, -, rfl⟩
  · rw [exec_of_tornDown i (s := { s with busy := true }) hl] at hi
    cases hi
    exact hl
  · exact hl

/-- Settles O28, by the two outcomes of a command and the three kinds of step. -/
theorem lifecycleTransitions : Obligations.LifecycleTransitions := by
  unfold Obligations.LifecycleTransitions
  refine ⟨fun i s t h => exec_life_of_other h, fun s t h hl => ?_, fun s t h => ?_, fun s t h hne => ?_,
    fun s t h hl hno => ?_⟩
  · rcases exec_outcome h with hr | ⟨n, ts, hp, rfl⟩
    · obtain ⟨hres, ht⟩ := hr.frame
      rw [if_neg hres, ht]
    · cases hp with
      | init => simp
      | query i hq => simp at hq
  · rcases exec_teardown_cases h with ⟨hl, rfl⟩ | ⟨-, rfl⟩
    · exact hl
    · rfl
  · rcases step_kinds h with ht | ⟨w, es, hh, -, hw⟩ | ⟨e, es, u, hh, he, -, -⟩
    · exact absurd (by rw [ht]) hne
    · rcases startCommand_changes_life hw hne with rfl | rfl
      · exact ⟨_, es, hh, .inl rfl⟩
      · exact ⟨_, es, hh, .inr (.inl rfl)⟩
    · exact ⟨e, es, hh, .inr (.inr he)⟩
  · rcases step_kinds h with ht | ⟨w, es, -, -, hw⟩ | ⟨e, es, u, hh, he, -, -⟩
    · rw [ht]
      exact hl
    · exact startCommand_of_tornDown hw hl
    · simp [hno e es hh] at he

/-! ### The enabled flag (R26) and the register `RESULT` (R34) -/

theorem Prepares.enabled {i : Instr} {s n : State} {ts : List Txn} (h : Prepares s i n ts) :
    n.enabled =
      if i = .init ∨ i = .setSpeed ∨ i = .stop then true else if i = .disable then false else s.enabled := by
  cases h with
  | query i hi => rcases hi with rfl | rfl | rfl <;> simp
  | _ => simp

/-- Settles O29: a rejected command keeps the flag, a successful one leaves it as prepared. -/
theorem enabledHasItsWriters : Obligations.EnabledHasItsWriters := by
  unfold Obligations.EnabledHasItsWriters
  intro i s t h
  rcases exec_outcome h with hr | ⟨n, ts, hp, rfl⟩
  · obtain ⟨hres, ht⟩ := hr.frame
    simp only [hres, false_and, if_false]
    rw [ht]
  · simpa using hp.enabled

theorem decayBit_setWidth (m : Decay) : (decayBit m).setWidth 32 = if m = .slow then 1#32 else 0#32 := by
  cases m <;> rfl

theorem Prepares.resultReg {i : Instr} {s n : State} {ts : List Txn} (h : Prepares s i n ts) :
    n.resultReg =
      if i = .getSpeed then s.speed
      else if i = .getFrequency then s.freq
      else if i = .getDecayMode then (if s.decay = .slow then 1#32 else 0#32)
      else s.resultReg := by
  cases h with
  | query i hi => rcases hi with rfl | rfl | rfl <;> simp [queryValue, decayBit_setWidth]
  | _ => simp

/-- Settles O31: a rejected command keeps the register, a successful one leaves it as prepared; the host's write is
ignored. -/
theorem resultRegisterHasItsWriters : Obligations.ResultRegisterHasItsWriters := by
  unfold Obligations.ResultRegisterHasItsWriters
  refine ⟨fun i s t h => ?_, fun _ => rfl, fun _ => rfl, fun s v es hh => ?_⟩
  · rcases exec_outcome h with hr | ⟨n, ts, hp, rfl⟩
    · obtain ⟨hres, ht⟩ := hr.frame
      simp only [hres, false_and, if_false]
      rw [ht]
    · simpa using hp.resultReg
  · rw [step_of_event hh]
    exact handleEvent_write_ignored v _ (by decide) (by decide)

/-! ### The level shadows (R27) -/

/-- The last level among the transactions is the shadow that emitting them leaves. -/
theorem lastLevel_eq_foldl (ch : PinId) (ts : List Txn) (v : Level) :
    lastLevel ch ts v.toNat = (ts.foldl (fun v t => shadowAfter ch t v) v).toNat := by
  induction ts generalizing v with
  | nil => rfl
  | cons t ts ih =>
    cases t with
    | sinkLevel c l => rw [lastLevel, ← apply_ite BitVec.toNat, ih]; rfl
    | _ => exact ih v

/-- Settles O32: a rejected command emits nothing, and a successful one emits from shadows and a trace that are still the
old ones. -/
theorem levelShadowsFollowTheTrace : Obligations.LevelShadowsFollowTheTrace := by
  unfold Obligations.LevelShadowsFollowTheTrace
  intro i s t h
  rcases exec_outcome h with hr | ⟨n, ts, hp, rfl⟩
  · obtain ⟨-, ht⟩ := hr.frame
    rw [ht]
    simp [newTxns, lastLevel]
  · obtain ⟨hcfg, hpos, hneg, htrace⟩ := hp.not_yet_emitted
    have hnew : newTxns s (finish .ok (emitAll ts n)) = ts := by simp [newTxns, htrace]
    rw [hnew, lastLevel_eq_foldl, lastLevel_eq_foldl, finish_levelPos, finish_levelNeg, emitAll_levelPos,
      emitAll_levelNeg, hcfg, hpos, hneg]
    exact ⟨rfl, rfl⟩

end Sys2Proof.Machine
end

section
/-! The host window and the step on a command word: the registers' layouts, ignored accesses, `ARG`, and reset. -/

namespace Sys2Proof.Machine

open Sys2Proof

/-! ### The step on a command word (R31) -/

/-- Settles O5: the write is taken from the host, finds the block idle, and starts the decoded command. -/
theorem stepRunsTheDecodedCommand : Obligations.StepRunsTheDecodedCommand := by
  unfold Obligations.StepRunsTheDecodedCommand
  intro s w i es hh hb hd
  rw [step_of_event hh, handleEvent_cmdWrite_idle w (s := { s with host := es }) hb, startCommand_of_decode _ hd]

/-- Settles O6: the placed word is the next event, and it decodes to the command. -/
theorem placedWordIsRunByTheNextStep : Obligations.PlacedWordIsRunByTheNextStep := by
  unfold Obligations.PlacedWordIsRunByTheNextStep
  intro s nbits w i h
  obtain ⟨hw, hd⟩ := decodeTableWord_eq_some h
  rw [← Nat.mod_eq_of_lt hw] at hd
  exact stepRunsTheDecodedCommand (s.withFetchWord nbits w) _ i s.host rfl rfl hd

/-! ### `STATUS` (R33) -/

theorem readyFlag_eq (s : State) : readyFlag s = decide (s.life = .ready) := by
  unfold readyFlag
  cases s.life <;> rfl

theorem tornDownFlag_eq (s : State) : tornDownFlag s = decide (s.life = .tornDown) := by
  unfold tornDownFlag
  cases s.life <;> rfl

theorem statusWord_busy (s : State) : (statusWord s).getLsbD 0 = s.busy := by
  change BitVec.getLsbD (w := 23 + 1 + 4 + 1 + 1 + 1 + 1) _ 0 = _
  simp only [statusWord, BitVec.getLsbD_append]
  simp

theorem statusWord_ready (s : State) : (statusWord s).getLsbD 1 = decide (s.life = .ready) := by
  change BitVec.getLsbD (w := 23 + 1 + 4 + 1 + 1 + 1 + 1) _ 1 = _
  simp only [statusWord, BitVec.getLsbD_append]
  simp [readyFlag_eq]

theorem statusWord_enabled (s : State) : (statusWord s).getLsbD 2 = s.enabled := by
  change BitVec.getLsbD (w := 23 + 1 + 4 + 1 + 1 + 1 + 1) _ 2 = _
  simp only [statusWord, BitVec.getLsbD_append]
  simp

theorem statusWord_tornDown (s : State) : (statusWord s).getLsbD 3 = decide (s.life = .tornDown) := by
  change BitVec.getLsbD (w := 23 + 1 + 4 + 1 + 1 + 1 + 1) _ 3 = _
  simp only [statusWord, BitVec.getLsbD_append]
  simp [tornDownFlag_eq]

theorem statusWord_result (s : State) : (statusWord s).extractLsb' 4 4 = resultCode s.result := by
  change BitVec.extractLsb' (n := 23 + 1 + 4 + 1 + 1 + 1 + 1) 4 4 _ = _
  simp only [statusWord, BitVec.extractLsb'_append_eq_ite]
  simp

theorem decayBit_getLsbD_zero (m : Decay) : (decayBit m).getLsbD 0 = decide (m = .slow) := by
  cases m <;> rfl

theorem statusWord_decay (s : State) : (statusWord s).getLsbD 8 = decide (s.decay = .slow) := by
  change BitVec.getLsbD (w := 23 + 1 + 4 + 1 + 1 + 1 + 1) _ 8 = _
  simp only [statusWord, BitVec.getLsbD_append]
  simpa using decayBit_getLsbD_zero s.decay

theorem statusWord_reserved (s : State) : (statusWord s).extractLsb' 9 23 = 0#23 := by
  change BitVec.extractLsb' (n := 23 + 1 + 4 + 1 + 1 + 1 + 1) 9 23 _ = _
  simp only [statusWord, BitVec.extractLsb'_append_eq_ite]
  simp

theorem readReg_status (s : State) : readReg s 0x08#6 = statusWord s := rfl

/-- The result codes as R220 numbers them. -/
theorem resultCode_toNat (r : ResultCode) :
    (resultCode r).toNat =
      match r with
      | .ok => 0
      | .infeasibleFrequency => 1
      | .notInitialized => 2
      | .illegalCommand => 3
      | .badOperand => 4
      | .tornDown => 5 := by
  cases r <;> rfl

theorem statusWord_resetOf (c : Config) :
    statusWord (State.resetOf c) = if c.defaultDecay = .slow then 0x100#32 else 0x000#32 := by
  simp only [statusWord, readyFlag_eq, tornDownFlag_eq, State.resetOf]
  cases c.defaultDecay <;> simp [decayBit, resultCode]

/-- Settles O7, field by field. -/
theorem statusRegisterLayout : Obligations.StatusRegisterLayout := by
  unfold Obligations.StatusRegisterLayout
  refine ⟨fun s => ?_, statusWord_resetOf, fun s v es hh => ?_⟩
  · rw [readReg_status, statusWord_busy, statusWord_ready, statusWord_enabled, statusWord_tornDown, statusWord_result,
      statusWord_decay, statusWord_reserved]
    refine ⟨rfl, rfl, rfl, rfl, resultCode_toNat s.result, rfl, rfl, ?_, ?_⟩ <;> cases s.life <;> simp
  · rw [step_of_event hh]
    exact handleEvent_write_ignored v _ (by decide) (by decide)

/-! ### `CONFIG`, `MAXPER` and `DEFFREQ` (R38) -/

theorem configWord_pinPos (c : Config) : (configWord c).extractLsb' 0 8 = c.pinPos := by
  change BitVec.extractLsb' (n := 14 + 1 + 1 + 8 + 8) 0 8 _ = _
  simp only [configWord, BitVec.extractLsb'_append_eq_ite]
  simp

theorem configWord_pinNeg (c : Config) : (configWord c).extractLsb' 8 8 = c.pinNeg := by
  change BitVec.extractLsb' (n := 14 + 1 + 1 + 8 + 8) 8 8 _ = _
  simp only [configWord, BitVec.extractLsb'_append_eq_ite]
  simp

theorem configWord_defaultDecay (c : Config) : (configWord c).getLsbD 16 = decide (c.defaultDecay = .slow) := by
  change BitVec.getLsbD (w := 14 + 1 + 1 + 8 + 8) _ 16 = _
  simp only [configWord, BitVec.getLsbD_append]
  simpa using decayBit_getLsbD_zero c.defaultDecay

theorem configWord_sharedSlice (c : Config) : (configWord c).getLsbD 17 = c.sharedSlice := by
  change BitVec.getLsbD (w := 14 + 1 + 1 + 8 + 8) _ 17 = _
  simp only [configWord, BitVec.getLsbD_append]
  simp

theorem configWord_reserved (c : Config) : (configWord c).extractLsb' 18 14 = 0#14 := by
  change BitVec.extractLsb' (n := 14 + 1 + 1 + 8 + 8) 18 14 _ = _
  simp only [configWord, BitVec.extractLsb'_append_eq_ite]
  simp

theorem readReg_config (s : State) : readReg s 0x28#6 = configWord s.cfg := rfl
theorem readReg_maxPeriod (s : State) : readReg s 0x2C#6 = BitVec.ofNat 32 s.cfg.maxPwmPeriod := rfl
theorem readReg_defaultFreq (s : State) : readReg s 0x30#6 = s.cfg.defaultFreq := rfl

/-- Settles O8: the three registers read the configuration only, which no step changes. -/
theorem configurationRegistersNeverChange : Obligations.ConfigurationRegistersNeverChange := by
  unfold Obligations.ConfigurationRegistersNeverChange
  refine ⟨fun s => ?_, fun s t h => ?_⟩
  · have hmax : (readReg s 0x2C#6).toNat = s.cfg.maxPwmPeriod := by
      have := config_maxPeriod s.cfg
      rw [readReg_maxPeriod, BitVec.toNat_ofNat]
      omega
    rw [readReg_config]
    exact ⟨configWord_pinPos _, configWord_pinNeg _, configWord_defaultDecay _, configWord_sharedSlice _,
      configWord_reserved _, hmax, rfl⟩
  · simp only [readReg_config, readReg_maxPeriod, readReg_defaultFreq, step_cfg h, and_self]

/-! ### Mirrors, reserved and read-only offsets (R35, R36, R40) -/

theorem toNat_readReg_period (s : State) : (readReg s 0x18#6).toNat = s.period.toNat :=
  BitVec.toNat_setWidth_of_le (by decide)

theorem toNat_readReg_div16 (s : State) : (readReg s 0x1C#6).toNat = s.div16.toNat :=
  BitVec.toNat_setWidth_of_le (by decide)

theorem toNat_readReg_levelPos (s : State) : (readReg s 0x20#6).toNat = s.levelPos.toNat :=
  BitVec.toNat_setWidth_of_le (by decide)

theorem toNat_readReg_levelNeg (s : State) : (readReg s 0x24#6).toNat = s.levelNeg.toNat :=
  BitVec.toNat_setWidth_of_le (by decide)

/-- Settles O9: each mirror is its field widened without loss, and a read touches the replies only. -/
theorem mirrorRegistersShowTheState : Obligations.MirrorRegistersShowTheState := by
  unfold Obligations.MirrorRegistersShowTheState
  refine ⟨fun s => ⟨rfl, rfl, toNat_readReg_period s, toNat_readReg_div16 s, toNat_readReg_levelPos s,
    toNat_readReg_levelNeg s⟩, fun s offset es ha hh => ?_⟩
  rw [step_of_event hh, handleEvent_read _ ha]
  rfl

/-- Settles O10, from what an ignored write and a write in a busy state do. -/
theorem reservedAndReadOnlyOffsets : Obligations.ReservedAndReadOnlyOffsets := by
  unfold Obligations.ReservedAndReadOnlyOffsets
  refine ⟨fun s => ⟨rfl, rfl, rfl, rfl⟩, fun s offset v es ha ho hh => ?_, fun s v es hb hh => ?_⟩
  · rw [step_of_event hh, handleEvent_write_ignored v _ ha ho]
  · rcases hh with hh | hh
    · exact (step_of_event hh).trans (handleEvent_cmdWrite_busy v hb)
    · exact (step_of_event hh).trans (handleEvent_argWrite_busy v hb)

/-! ### `ARG` (R32) -/

theorem afterSample_with_arg (s : State) (v : Word) :
    afterSample { s with arg := v } = { afterSample s with arg := v } := by
  unfold afterSample
  split <;> simp_all

theorem initBody_with_arg (s : State) (v : Word) : initBody { s with arg := v } = { initBody s with arg := v } := by
  have hsample : sampleClock { s with arg := v } = sampleClock s := rfl
  simp only [initBody, hsample, afterSample_with_arg]
  cases factorizeWord s.cfg.maxPwmPeriod s.cfg.defaultFreq (sampleClock s) with
  | none => rfl
  | some r =>
    simp only [emitAll_initTxns]
    rfl

theorem unlessTornDown_with_arg (s : State) (v : Word) {body : State → State}
    (hbody : body { s with arg := v } = { body s with arg := v }) :
    unlessTornDown { s with arg := v } body = { unlessTornDown s body with arg := v } := by
  cases s with
  | mk cfg life =>
    cases life with
    | tornDown => rfl
    | _ => exact hbody

theorem whenReady_with_arg (s : State) (v : Word) {body : State → State}
    (hbody : body { s with arg := v } = { body s with arg := v }) :
    whenReady { s with arg := v } body = { whenReady s body with arg := v } := by
  cases s with
  | mk cfg life =>
    cases life with
    | ready => exact hbody
    | _ => rfl

/-- A command without an operand does the same whatever `ARG` holds: its checks and its body pass `ARG` on. -/
theorem exec_with_arg {i : Instr} {s t : State} (v : Word) (hspeed : i ≠ .setSpeed) (hfreq : i ≠ .setFrequency)
    (hdecay : i ≠ .setDecayMode) (h : exec i s = .next t) :
    exec i { s with arg := v } = .next { t with arg := v } := by
  cases i with
  | setSpeed => exact absurd rfl hspeed
  | setFrequency => exact absurd rfl hfreq
  | setDecayMode => exact absurd rfl hdecay
  | init => cases h; exact congrArg _ (unlessTornDown_with_arg s v (initBody_with_arg s v))
  | stop => cases h; exact congrArg _ (whenReady_with_arg s v rfl)
  | disable => cases h; exact congrArg _ (whenReady_with_arg s v rfl)
  | _ => cases h; exact congrArg _ (unlessTornDown_with_arg s v rfl)

/-- Settles O14: no command touches what is the host's, and one without an operand passes `ARG` on. -/
theorem argumentRegister : Obligations.ArgumentRegister := by
  unfold Obligations.ArgumentRegister
  refine ⟨fun s v es hh hb => ?_, fun _ => rfl, fun _ => rfl, fun i s t h => (exec_outside h).2.1,
    fun i s t v hspeed hfreq hdecay h => exec_with_arg v hspeed hfreq hdecay h⟩
  exact (step_of_event hh).trans (handleEvent_argWrite_idle v hb)

/-! ### Reset (R44) -/

/-- Settles O16: the reset event replaces the block's fields and nothing else. -/
theorem resetGivesTheResetValues : Obligations.ResetGivesTheResetValues := by
  unfold Obligations.ResetGivesTheResetValues
  refine ⟨fun c => ?_, fun s es hh => ?_⟩
  · exact ⟨rfl, rfl, rfl, rfl, rfl, rfl, rfl, rfl, rfl, rfl, rfl, rfl, rfl, rfl⟩
  · exact step_of_event hh

end Sys2Proof.Machine
end

section
/-! The ports of the block: the trace of transactions, the clock samples, accesses that are not admitted, and the byte
lanes (20_memory.md). -/

namespace Sys2Proof.Machine

open Sys2Proof

/-! ### The trace (R57, R271) -/

/-- R59: a slice-level transaction is at most two transactions. -/
theorem length_perSlice_le (c : Config) (f : PinId → Txn) : (perSlice c f).length ≤ 2 := by
  unfold perSlice
  split
  · exact Nat.le_succ 1
  · exact Nat.le_refl 2

theorem length_initTxns_le (n : State) : (initTxns n).length ≤ 8 := by
  have hconfig : (configTxns n.cfg n.period n.div16).length ≤ 2 := length_perSlice_le _ _
  have henable : (enableTxns n.cfg).length ≤ 2 := length_perSlice_le _ _
  simp only [initTxns, levelTxns, claimTxns, List.length_append, List.length_cons, List.length_nil]
  omega

theorem length_frequencyTxns_le (old : Level) (n : State) : (frequencyTxns old n).length ≤ 6 := by
  have hdivider : (dividerTxns n.cfg n.div16).length ≤ 2 := length_perSlice_le _ _
  have hwrap : (wrapTxns n.cfg n.period).length ≤ 2 := length_perSlice_le _ _
  unfold frequencyTxns
  split <;> simp only [levelTxns, List.length_append, List.length_cons, List.length_nil] <;> omega

/-- R271: the longest emission of a command is INIT's, with its own slice for each channel. -/
theorem Prepares.length_le {i : Instr} {s n : State} {ts : List Txn} (h : Prepares s i n ts) : ts.length ≤ 8 := by
  cases h with
  | init p d => exact length_initTxns_le _
  | setFrequency p d => exact (length_frequencyTxns_le _ _).trans (by decide)
  | query => exact Nat.zero_le 8
  | _ => simp [levelTxns, releaseTxns]

theorem Rejects.trace {s t : State} (h : Rejects s t) : t.trace = s.trace := by
  rw [h.frame.2]

/-- A command appends what it emits to the trace: nothing when it is rejected, its transactions when it succeeds. -/
theorem exec_trace {i : Instr} {s t : State} (h : exec i s = .next t) :
    ∃ new, t.trace = s.trace ++ new ∧ new.length ≤ 8 := by
  rcases exec_outcome h with hr | ⟨n, ts, hp, rfl⟩
  · exact ⟨[], by simp [hr.trace], Nat.zero_le 8⟩
  · obtain ⟨-, -, -, htrace⟩ := hp.not_yet_emitted
    exact ⟨ts, by simp [htrace], hp.length_le⟩

theorem startCommand_trace {w : Word} {s t : State} (h : startCommand w s = .next t) : s.trace <+: t.trace := by
  rcases startCommand_cases h with ⟨i, -, hi⟩ | ⟨r, -, rfl⟩
  · obtain ⟨new, hnew, -⟩ := exec_trace hi
    exact ⟨new, hnew.symm⟩
  · exact List.prefix_rfl

theorem hostRead_trace {width : AccessWidth} {offset : BitVec 6} {s t : State}
    (h : hostRead width offset s = .next t) : t.trace = s.trace := by
  rcases hostRead_cases h with ⟨-, rfl⟩ | ⟨-, rfl⟩ <;> rfl

theorem hostWrite_trace {width : AccessWidth} {offset : BitVec 6} {v : Word} {s t : State}
    (h : hostWrite width offset v s = .next t) : s.trace <+: t.trace := by
  rcases hostWrite_kinds h with ht | ⟨-, -, -, hs⟩
  · rw [ht]
  · exact startCommand_trace hs

/-- Settles O33: only a command emits, and it appends; reset keeps the trace, and a reset during a command keeps what the
command's front part has appended. -/
theorem traceOnlyGrows : Obligations.TraceOnlyGrows := by
  unfold Obligations.TraceOnlyGrows
  refine ⟨fun i s t h => exec_trace h, fun s t h => ?_⟩
  rcases step_cases h with ⟨-, rfl⟩ | ⟨width, offset, es, -, hr⟩ | ⟨width, offset, v, es, -, hw⟩ | ⟨es, -, rfl⟩ |
    ⟨w, k, es, d, -, -, -, rfl⟩
  · exact List.prefix_rfl
  · rw [hostRead_trace hr]
  · exact hostWrite_trace (s := { s with host := es }) hw
  · exact List.prefix_rfl
  · exact List.prefix_append s.trace _

/-! ### The clock (R56) -/

/-- A command other than INIT and SET_FREQUENCY leaves the clock alone. -/
theorem exec_clock_of_other {i : Instr} {s t : State} (h : exec i s = .next t) (hinit : i ≠ .init)
    (hfreq : i ≠ .setFrequency) : t.clockIn = s.clockIn ∧ t.draws = s.draws := by
  cases i with
  | init => exact absurd rfl hinit
  | setFrequency => exact absurd rfl hfreq
  | setSpeed => rcases exec_setSpeed_cases h with ⟨-, rfl⟩ | ⟨-, rfl⟩ | ⟨-, rfl⟩ <;> simp [driveLevels]
  | setDecayMode =>
    rcases exec_setDecayMode_cases h with ⟨-, rfl⟩ | ⟨-, rfl⟩ | ⟨-, -, rfl⟩ | ⟨m, -, -, rfl⟩ <;> simp [driveLevels]
  | stop => rcases exec_stop_cases h with ⟨-, rfl⟩ | ⟨-, rfl⟩ | ⟨-, rfl⟩ <;> simp [driveLevels]
  | disable => rcases exec_disable_cases h with ⟨-, rfl⟩ | ⟨-, rfl⟩ | ⟨-, rfl⟩ <;> simp
  | getSpeed => rcases exec_query_cases (.inl rfl) h with ⟨-, rfl⟩ | ⟨-, rfl⟩ <;> simp
  | getFrequency => rcases exec_query_cases (.inr (.inl rfl)) h with ⟨-, rfl⟩ | ⟨-, rfl⟩ <;> simp
  | getDecayMode => rcases exec_query_cases (.inr (.inr rfl)) h with ⟨-, rfl⟩ | ⟨-, rfl⟩ <;> simp
  | teardown => rcases exec_teardown_cases h with ⟨-, rfl⟩ | ⟨-, rfl⟩ <;> simp

/-- The clock after a command is the clock after one sample where the command factorizes, feasibly or not, and the old one
where it does not. -/
theorem exec_clock {i : Instr} {s t : State} (h : exec i s = .next t) :
    if (i = .init ∧ s.life ≠ .tornDown) ∨ (i = .setFrequency ∧ s.life = .ready) then
      t.clockIn = (afterSample s).clockIn ∧ t.draws = (afterSample s).draws
    else t.clockIn = s.clockIn ∧ t.draws = s.draws := by
  by_cases hinit : i = .init
  · subst hinit
    rcases exec_init_cases h with ⟨hl, rfl⟩ | ⟨hl, -, rfl⟩ | ⟨p, d, hl, -, rfl⟩ <;> simp [hl]
  by_cases hfreq : i = .setFrequency
  · subst hfreq
    rcases exec_setFrequency_cases h with ⟨hl, rfl⟩ | ⟨hl, rfl⟩ | ⟨hl, -, rfl⟩ | ⟨p, d, hl, -, rfl⟩ <;> simp [hl]
  simpa [hinit, hfreq] using exec_clock_of_other h hinit hfreq

/-- Settles O34: where the command factorizes, the clock is the one after a sample, which uses up the head of the list or
else one free draw. -/
theorem clockIsSampledOnlyToFactorize : Obligations.ClockIsSampledOnlyToFactorize := by
  unfold Obligations.ClockIsSampledOnlyToFactorize
  intro i s t h
  have hclock := exec_clock h
  split at hclock
  · rename_i hfactorizes
    obtain ⟨hclockIn, hdraws⟩ := hclock
    rw [if_pos hfactorizes, hclockIn, hdraws]
    rcases afterSample_cases s with ⟨c, cs, hin, hc, hafter⟩ | ⟨hin, -, hafter⟩
    · simp [hin, hc, hafter]
    · simp [hin, hafter]
  · rename_i hnot
    rwa [if_neg hnot]

/-! ### Accesses that are not admitted (R52, R226) -/

theorem admitted_eq_false {width : AccessWidth} {offset : BitVec 6} (h : width ≠ .word ∨ offset.toNat % 4 ≠ 0) :
    admitted width offset = false := by
  rcases h with h | h <;> simp [admitted, h]

theorem handleEvent_read_unadmitted {width : AccessWidth} {offset : BitVec 6} (s : State)
    (ha : admitted width offset = false) : handleEvent (.access (.read width offset)) s = .next (busError s) := by
  simp [handleEvent, hostAccess, hostRead, ha]

theorem handleEvent_write_unadmitted {width : AccessWidth} {offset : BitVec 6} (v : Word) (s : State)
    (ha : admitted width offset = false) : handleEvent (.access (.write width offset v)) s = .next (busError s) := by
  simp [handleEvent, hostAccess, hostWrite, ha]

/-- R226: the state after a bus error is no answer of a run. -/
theorem not_safeState_busError (s : State) : ¬ SafeState (busError s) := by
  simp [SafeState]

/-- Settles O11: a read and a write that are not admitted have the same effect, the bus error's. -/
theorem unadmittedAccessIsABusError : Obligations.UnadmittedAccessIsABusError := by
  unfold Obligations.UnadmittedAccessIsABusError
  intro s width offset es hbad hh
  have ha := admitted_eq_false hbad
  refine ⟨busError { s with host := es }, ?_, rfl, not_safeState_busError _⟩
  rcases hh with hh | ⟨v, hh⟩
  · exact (step_of_event hh).trans (handleEvent_read_unadmitted _ ha)
  · exact (step_of_event hh).trans (handleEvent_write_unadmitted v _ ha)

/-! ### Byte lanes (R53) -/

theorem toNat_laneOfWord (w : Word) (k : Nat) : (laneOfWord w k).toNat = w.toNat / 2 ^ (8 * k) % 2 ^ 8 := by
  rw [laneOfWord, BitVec.extractLsb'_toNat, Nat.shiftRight_eq_div_pow]

/-- The register of a byte offset begins at the multiple of 4 below it. -/
theorem and_mask_eq_register_offset : ∀ offset : BitVec 6,
    offset &&& 0x3C#6 = BitVec.ofNat 6 (offset.toNat / 4 * 4) := by
  decide

/-- Settles O15: the byte is a lane of the register that the offset lies in. -/
theorem byteLanesAreLittleEndian : Obligations.ByteLanesAreLittleEndian := by
  unfold Obligations.ByteLanesAreLittleEndian
  intro s offset
  rw [windowByte, and_mask_eq_register_offset, toNat_laneOfWord]

end Sys2Proof.Machine
end

section
/-! The encoding of a command word: decoding read forwards, the whole decode map, and the effect of a word that is no
command (R70 to R73, R206). -/

namespace Sys2Proof.Machine

open Sys2Proof

/-! ### Decoding and encoding agree (R70 to R72, R53) -/

theorem encoding_statement (i : Instr) : Laws.Encoding.Statement i := by
  cases i with
  | init => exact Laws.Encoding.init
  | setSpeed => exact Laws.Encoding.setSpeed
  | setFrequency => exact Laws.Encoding.setFrequency
  | setDecayMode => exact Laws.Encoding.setDecayMode
  | stop => exact Laws.Encoding.stop
  | disable => exact Laws.Encoding.disable
  | getSpeed => exact Laws.Encoding.getSpeed
  | getFrequency => exact Laws.Encoding.getFrequency
  | getDecayMode => exact Laws.Encoding.getDecayMode
  | teardown => exact Laws.Encoding.teardown

/-- R71: the decoder reads back the word of every command. -/
@[simp] theorem decode_encode (i : Instr) : decode (encode i) = .command i := by
  obtain ⟨-, -, -, h⟩ := encoding_statement i
  exact h

theorem decode_eq_command_iff (w : Word) (i : Instr) : decode w = .command i ↔ w = encode i :=
  ⟨eq_encode_of_decode, fun h => h ▸ decode_encode i⟩

/-- The decoder over bytes decodes the word whose lanes come first (R53). -/
theorem decodeBytes_lanesOfWord (w : Word) (rest : List Byte) :
    decodeBytes (lanesOfWord w ++ rest) = (decode w, rest) := by
  simp only [lanesOfWord, List.cons_append, List.nil_append, decodeBytes, wordOfLanes_laneOfWord]

/-- Settles O3: a word is made up of its two fields, and the opcode map is one-to-one; the bytes are the word's
lanes. -/
theorem decodeAgreesWithEncode : Obligations.DecodeAgreesWithEncode := by
  unfold Obligations.DecodeAgreesWithEncode
  refine ⟨decode_eq_command_iff, fun i rest => ?_⟩
  rw [encodeBytes, decodeBytes_lanesOfWord, decode_encode]

/-! ### The whole decode map (R71, R73) -/

theorem toNat_opcField (w : Word) : (opcField w).toNat = w.toNat % 16 := by
  rw [opcField, BitVec.extractLsb'_toNat, Nat.shiftRight_zero]

theorem toNat_rsvdField (w : Word) : (rsvdField w).toNat = w.toNat / 16 := by
  have := w.isLt
  rw [rsvdField, BitVec.extractLsb'_toNat, Nat.shiftRight_eq_div_pow]
  omega

theorem rsvdField_eq_zero_iff (w : Word) : rsvdField w = 0 ↔ w.toNat < 16 := by
  rw [← BitVec.toNat_inj, toNat_rsvdField]
  exact Nat.div_eq_zero_iff_lt (by decide)

/-- R73: a word with a bit in `RSVD` is illegal. -/
theorem decode_of_reserved {w : Word} (h : 16 ≤ w.toNat) : decode w = .illegal .reservedBits := by
  rw [decode, if_pos]
  rw [ne_eq, rsvdField_eq_zero_iff]
  omega

/-- R71: a word with no bit in `RSVD` is decoded by the opcode map alone. -/
theorem decode_of_no_reserved {w : Word} (h : w.toNat < 16) : decode w = opcodeCommand (opcField w) := by
  rw [decode, if_neg]
  simpa using (rsvdField_eq_zero_iff w).2 h

/-- R206: an illegal word written to `CMD` of an idle block sets the result code and nothing else. -/
theorem step_of_illegal {s : State} {w : Word} {r : IllegalReason} {es : List HostEvent}
    (hh : s.host = cmdWrite w :: es) (hb : s.busy = false) (hd : decode w = .illegal r) :
    step s = .next { s with host := es, result := .illegalCommand, busy := false } := by
  rw [step_of_event hh, handleEvent_cmdWrite_idle w (s := { s with host := es }) hb]
  simp only [startCommand, hd]
  rfl

/-- Settles O2: a word below 16 is its opcode, and any other has a bit in `RSVD`. -/
theorem everyWordIsACommandOrIllegal : Obligations.EveryWordIsACommandOrIllegal := by
  unfold Obligations.EveryWordIsACommandOrIllegal
  refine ⟨fun w => ?_, fun s w r es => step_of_illegal⟩
  by_cases h : w.toNat < 16
  · have hopc : (opcField w).toNat = w.toNat := by rw [toNat_opcField, Nat.mod_eq_of_lt h]
    rw [decode_of_no_reserved h, opcodeCommand, hopc]
    generalize w.toNat = n at h
    interval_cases n <;> rfl
  · rw [decode_of_reserved (not_lt.1 h)]
    split
    case h_11 => rw [if_neg h]
    all_goals omega

/-- Settles O1: each command word is an encoding; the others have an unused opcode or a bit in `RSVD`. -/
theorem opcodeTableWordsDecode : Obligations.OpcodeTableWordsDecode := by
  unfold Obligations.OpcodeTableWordsDecode
  exact ⟨decode_encode .init, decode_encode .setSpeed, decode_encode .setFrequency, decode_encode .setDecayMode,
    decode_encode .stop, decode_encode .disable, decode_encode .getSpeed, decode_encode .getFrequency,
    decode_encode .getDecayMode, decode_encode .teardown,
    decode_of_no_reserved (by decide), decode_of_no_reserved (by decide), decode_of_no_reserved (by decide),
    decode_of_reserved (by decide), decode_of_reserved (by decide)⟩

end Sys2Proof.Machine
end

section
/-! The 39-bit wire word of a transaction (R85): its fields, and that a word is the word of at most one transaction. -/

namespace Sys2Proof.Machine

open Sys2Proof

/-! ### The five fields -/

theorem toNat_append_eq_add {n m : Nat} (x : BitVec n) (y : BitVec m) :
    (x ++ y).toNat = x.toNat * 2 ^ m + y.toNat := by
  rw [BitVec.toNat_append, ← Nat.shiftLeft_add_eq_or_of_lt y.isLt, Nat.shiftLeft_eq]

theorem toNat_packTxn (kind : BitVec 3) (ident : BitVec 8) (val16 : BitVec 16) (dInt : BitVec 8) (dFrac : BitVec 4) :
    (packTxn kind ident val16 dInt dFrac).toNat =
      kind.toNat + ident.toNat * 2 ^ 3 + val16.toNat * 2 ^ 11 + dInt.toNat * 2 ^ 27 + dFrac.toNat * 2 ^ 35 := by
  rw [packTxn, toNat_append_eq_add, toNat_append_eq_add, toNat_append_eq_add, toNat_append_eq_add]
  omega

/-- Every 39-bit word is made up of the five fields that the reader takes from it. -/
theorem packTxn_fields (w : BitVec 39) :
    packTxn (w.extractLsb' 0 3) (w.extractLsb' 3 8) (w.extractLsb' 11 16) (w.extractLsb' 27 8) (w.extractLsb' 35 4) =
      w := by
  unfold packTxn
  rw [BitVec.extractLsb'_append_extractLsb'_eq_extractLsb' (by rfl),
    BitVec.extractLsb'_append_extractLsb'_eq_extractLsb' (by rfl),
    BitVec.extractLsb'_append_extractLsb'_eq_extractLsb' (by rfl),
    BitVec.extractLsb'_append_extractLsb'_eq_extractLsb' (by rfl)]
  exact BitVec.extractLsb'_eq_self

section fields

variable (kind : BitVec 3) (ident : BitVec 8) (val16 : BitVec 16) (dInt : BitVec 8) (dFrac : BitVec 4)

@[simp] theorem packTxn_kind : (packTxn kind ident val16 dInt dFrac).extractLsb' 0 3 = kind := by
  change BitVec.extractLsb' (n := 4 + 8 + 16 + 8 + 3) 0 3 _ = _
  simp only [packTxn, BitVec.extractLsb'_append_eq_ite]
  simp

@[simp] theorem packTxn_ident : (packTxn kind ident val16 dInt dFrac).extractLsb' 3 8 = ident := by
  change BitVec.extractLsb' (n := 4 + 8 + 16 + 8 + 3) 3 8 _ = _
  simp only [packTxn, BitVec.extractLsb'_append_eq_ite]
  simp

@[simp] theorem packTxn_val16 : (packTxn kind ident val16 dInt dFrac).extractLsb' 11 16 = val16 := by
  change BitVec.extractLsb' (n := 4 + 8 + 16 + 8 + 3) 11 16 _ = _
  simp only [packTxn, BitVec.extractLsb'_append_eq_ite]
  simp

@[simp] theorem packTxn_divInt : (packTxn kind ident val16 dInt dFrac).extractLsb' 27 8 = dInt := by
  change BitVec.extractLsb' (n := 4 + 8 + 16 + 8 + 3) 27 8 _ = _
  simp only [packTxn, BitVec.extractLsb'_append_eq_ite]
  simp

@[simp] theorem packTxn_divFrac : (packTxn kind ident val16 dInt dFrac).extractLsb' 35 4 = dFrac := by
  change BitVec.extractLsb' (n := 4 + 8 + 16 + 8 + 3) 35 4 _ = _
  simp only [packTxn, BitVec.extractLsb'_append_eq_ite]
  simp

end fields

/-! ### Writing and reading back -/

theorem txnOfWord_txnWord (t : Txn) : txnOfWord (txnWord t) = some t := by
  cases t <;> simp [txnWord, txnOfWord]

/-- A word that reads back as a transaction has its kind and its fields, and zeros in the unused ones. -/
theorem eq_txnWord_of_txnOfWord {w : BitVec 39} {t : Txn} (h : txnOfWord w = some t) : w = txnWord t := by
  have hkind : w.extractLsb' 0 3 = BitVec.ofNat 3 (w.extractLsb' 0 3).toNat := by
    rw [BitVec.ofNat_toNat, BitVec.setWidth_eq]
  rw [← packTxn_fields w]
  simp only [txnOfWord] at h
  split at h
  case h_8 => cases h
  case h_1 hk =>
    cases h
    rw [hkind, hk]
    rfl
  all_goals
    rename_i hk
    obtain ⟨hunused, h⟩ := Option.ite_none_right_eq_some.1 h
    cases h
    rw [hkind, hk]
    simp [txnWord, hunused]

/-- Settles O4: each word is its packed fields, and writing and reading back undo each other. -/
theorem transactionWordsAreOneToOne : Obligations.TransactionWordsAreOneToOne := by
  unfold Obligations.TransactionWordsAreOneToOne
  refine ⟨fun ch p di df => toNat_packTxn _ _ _ _ _, fun ch di df => ?_, fun ch w => ?_, fun ch l => ?_, fun ch => ?_,
    fun pin => ?_, fun pin => ?_, fun t w => ⟨eq_txnWord_of_txnOfWord, fun h => h ▸ txnOfWord_txnWord t⟩, rfl⟩
  all_goals simp [txnWord, toNat_packTxn]

end Sys2Proof.Machine
end

section
/-! The speed, the frequency, the decay mode and the timing: which command writes each, and with what (R22 to R25, R76,
R160); and the two parts of a divider and the wrap of a period (R78, R79). -/

namespace Sys2Proof.Machine

open Sys2Proof

/-! ### The writers (R22 to R25) -/

theorem Prepares.speed_toInt {i : Instr} {s n : State} {ts : List Txn} (h : Prepares s i n ts) :
    n.speed.toInt =
      if i = .init ∨ i = .stop ∨ i = .disable then 0
      else if i = .setSpeed then max (-65536) (min 65536 s.arg.toInt)
      else s.speed.toInt := by
  cases h with
  | setSpeed => simp [clampWord_toInt, clampSpeed]
  | query i hi => rcases hi with rfl | rfl | rfl <;> simp
  | _ => simp

theorem Prepares.freq {i : Instr} {s n : State} {ts : List Txn} (h : Prepares s i n ts) :
    n.freq = if i = .init then s.cfg.defaultFreq else if i = .setFrequency then s.arg else s.freq := by
  cases h with
  | query i hi => rcases hi with rfl | rfl | rfl <;> simp
  | _ => simp

/-- R76: an operand that encodes a decay mode is the word of the mode's bit. -/
theorem eq_decayBit_of_decayOperand {a : Word} {m : Decay} (h : decayOperand a = some m) :
    a = (decayBit m).setWidth 32 := by
  obtain ⟨hreserved, -⟩ := Option.ite_none_right_eq_some.1 h
  have hsmall : a.toNat < 2 := by
    have := a.isLt
    rw [← BitVec.toNat_inj, BitVec.extractLsb'_toNat, Nat.shiftRight_eq_div_pow] at hreserved
    change a.toNat / 2 ^ 1 % 2 ^ 31 = 0 at hreserved
    omega
  obtain rfl | rfl : a = 0#32 ∨ a = 1#32 := by
    simp only [← BitVec.toNat_inj, BitVec.toNat_ofNat]
    omega
  · cases h
    rfl
  · cases h
    rfl

theorem Prepares.decay {i : Instr} {s n : State} {ts : List Txn} (h : Prepares s i n ts) :
    if i = .setDecayMode then s.arg = (decayBit n.decay).setWidth 32 else n.decay = s.decay := by
  cases h with
  | setDecayMode m hl hm => exact eq_decayBit_of_decayOperand hm
  | query i hi => rcases hi with rfl | rfl | rfl <;> simp
  | _ => simp

/-- R107: the factorizer's result is not changed by the widths of `st.period` and `st.div16`. -/
theorem factorize_of_factorizeWord {maxP : Nat} {f c : Word} {p : Level} {d : Div16} (hmin : 1 ≤ maxP)
    (hmax : maxP ≤ 65535) (h : factorizeWord maxP f c = some (p, d)) :
    factorize maxP f.toNat c.toNat = some (p.toNat, d.toNat) := by
  obtain ⟨P, D, hf, rfl, rfl⟩ := factorizeWord_eq_some h
  obtain ⟨-, -, he, -, hD⟩ := factorize_eq_some hf
  have hP := extraction_period_range f.toNat c.toNat hmin
  rw [he] at hP
  rw [hf, BitVec.toNat_ofNat, BitVec.toNat_ofNat, Nat.mod_eq_of_lt (by omega), Nat.mod_eq_of_lt (by omega)]

theorem Prepares.timing {i : Instr} {s n : State} {ts : List Txn} (h : Prepares s i n ts) :
    if i = .init ∨ i = .setFrequency then
      factorize s.cfg.maxPwmPeriod n.freq.toNat (sampleClock s).toNat = some (n.period.toNat, n.div16.toNat)
    else n.period = s.period ∧ n.div16 = s.div16 := by
  obtain ⟨hmin, hmax⟩ := config_maxPeriod s.cfg
  cases h with
  | init p d hl hf => simpa using factorize_of_factorizeWord hmin hmax hf
  | setFrequency p d hl hf => simpa using factorize_of_factorizeWord hmin hmax hf
  | query i hi => rcases hi with rfl | rfl | rfl <;> simp
  | _ => simp

/-- Settles O30: a rejected command keeps the four values, a successful one leaves them as prepared. -/
theorem storedValuesHaveTheirWriters : Obligations.StoredValuesHaveTheirWriters := by
  unfold Obligations.StoredValuesHaveTheirWriters
  intro i s t h
  rcases exec_outcome h with hr | ⟨n, ts, hp, rfl⟩
  · obtain ⟨hres, ht⟩ := hr.frame
    simp only [hres, false_and, if_false]
    rw [ht]
    exact ⟨rfl, rfl, rfl, rfl, rfl⟩
  · have hdecay := hp.decay
    simp only [finish_result, true_and, finish_speed, finish_freq, finish_decay, finish_period, finish_div16,
      emitAll_speed, emitAll_freq, emitAll_decay, emitAll_period, emitAll_div16]
    refine ⟨hp.speed_toInt, hp.freq, ?_, hp.timing⟩
    cases hm : n.decay <;> simpa [hm, decayBit] using hdecay

/-! ### The divider and the wrap (R78, R79) -/

theorem toNat_divInt (d : Div16) : (divInt d).toNat = d.toNat / 16 := by
  have := d.isLt
  rw [divInt, BitVec.extractLsb'_toNat, Nat.shiftRight_eq_div_pow]
  omega

theorem toNat_divFrac (d : Div16) : (divFrac d).toNat = d.toNat % 16 := by
  rw [divFrac, BitVec.extractLsb'_toNat, Nat.shiftRight_zero]

theorem toNat_wrapOf {p : Level} (hp : 1 ≤ p.toNat) : (wrapOf p).toNat = p.toNat - 1 :=
  BitVec.toNat_sub_of_le hp

/-- Settles O44: the two parts are the quotient and the remainder by 16, and the wrap does not underflow. -/
theorem dividerSplitAndWrap : Obligations.DividerSplitAndWrap := by
  unfold Obligations.DividerSplitAndWrap
  refine ⟨fun d => ?_, fun p hp => ?_⟩
  · have := d.isLt
    rw [toNat_divInt, toNat_divFrac]
    omega
  · have := p.isLt
    rw [toNat_wrapOf hp]
    omega

end Sys2Proof.Machine
end

section
/-! The assembler: the conversion of a literal (R87), and the run of an assembled line's accesses (R88, R262). -/

namespace Sys2Proof.Machine

open Sys2Proof

/-! ### Literals (R87) -/

/-- The rounded magnitude of a literal carries the literal's sign. -/
theorem scaledLiteral_eq (d : Decimal) (factor : Nat) :
    scaledLiteral d factor =
      if d.negative then -(roundQuotient (d.mantissa * factor) (10 ^ d.scale) : Int)
      else (roundQuotient (d.mantissa * factor) (10 ^ d.scale) : Int) := rfl

theorem encSpeed_of_fits {d : Decimal} {n : Int} (hn : scaledLiteral d 65536 = n) (hmin : -2147483648 ≤ n)
    (hmax : n ≤ 2147483647) : ∃ w : Word, encSpeed d = some w ∧ w.toInt = n := by
  refine ⟨BitVec.ofInt 32 n, ?_, ?_⟩
  · simp only [encSpeed, hn]
    exact if_pos ⟨hmin, hmax⟩
  · rw [BitVec.toInt_ofInt, Int.bmod_eq_of_le] <;> omega

theorem encSpeed_eq_none {d : Decimal} {n : Int} (hn : scaledLiteral d 65536 = n)
    (h : n < -2147483648 ∨ 2147483647 < n) : encSpeed d = none := by
  simp only [encSpeed, hn]
  exact if_neg (by omega)

theorem encFreq_of_fits {d : Decimal} {n : Nat} (hn : scaledLiteral d 16 = n) (hmax : n < 2 ^ 32) :
    ∃ w : Word, encFreq d = some w ∧ w.toNat = n := by
  refine ⟨BitVec.ofInt 32 n, ?_, ?_⟩
  · simp only [encFreq, hn]
    exact if_pos (by omega)
  · rw [BitVec.toNat_ofInt]
    omega

theorem encFreq_eq_none {d : Decimal} {n : Int} (hn : scaledLiteral d 16 = n) (h : n < 0 ∨ 4294967295 < n) :
    encFreq d = none := by
  simp only [encFreq, hn]
  exact if_neg (by omega)

theorem encHex_of_fits {v : Nat} (h : v < 2 ^ 32) : ∃ w : Word, encHex v = some w ∧ w.toNat = v :=
  ⟨BitVec.ofNat 32 v, if_pos h, Nat.mod_eq_of_lt h⟩

theorem encHex_eq_none {v : Nat} (h : 2 ^ 32 ≤ v) : encHex v = none := if_neg (not_lt.2 h)

/-- Settles O54: in each clause the scaled literal is the rounded magnitude or its negative, and it fits or it does
not. -/
theorem assemblerConvertsLiterals : Obligations.AssemblerConvertsLiterals := by
  unfold Obligations.AssemblerConvertsLiterals
  refine ⟨fun d r hr => ?_, fun d r hr => ?_, rfl, rfl, fun v => encHex_of_fits, fun v => encHex_eq_none⟩
  · have hn : scaledLiteral d 65536 = if d.negative then -(r : Int) else r := hr ▸ scaledLiteral_eq d 65536
    refine ⟨fun hd h => ?_, fun hd h => ?_, fun hd h => ?_, fun hd h => ?_⟩ <;>
      simp only [hd, Bool.false_eq_true, if_true, if_false] at hn
    · exact encSpeed_of_fits hn (by omega) (by omega)
    · exact encSpeed_eq_none hn (by omega)
    · exact encSpeed_of_fits hn (by omega) (by omega)
    · exact encSpeed_eq_none hn (by omega)
  · have hn : scaledLiteral d 16 = if d.negative then -(r : Int) else r := hr ▸ scaledLiteral_eq d 16
    refine ⟨fun hd h => encFreq_of_fits (hn.trans ?_) h, fun h => encFreq_eq_none hn ?_,
      fun hd h => encFreq_eq_none hn ?_⟩
    · rcases hd with hd | hd <;> simp [hd]
    · split <;> omega
    · rw [if_pos hd]
      omega

/-! ### The accesses of a line (R88) -/

/-- The offset of a register of the window does not depend on where the platform puts the window (R51). -/
theorem windowOffset_base_add {base offset : Nat} (h : offset < 64) :
    windowOffset base (base + offset) = some (BitVec.ofNat 6 offset) := by
  rw [windowOffset, if_pos (by omega), Nat.add_sub_cancel_left]

theorem busEvent_cmd (base : Nat) (w : Word) : busEvent base ⟨base + 0x00, w⟩ = some (cmdWrite w) := by
  rw [busEvent, windowOffset_base_add (by decide)]
  rfl

theorem busEvent_arg (base : Nat) (v : Word) : busEvent base ⟨base + 0x04, v⟩ = some (argWrite v) := by
  rw [busEvent, windowOffset_base_add (by decide)]
  rfl

/-- R88: a line without an operand is one write to `CMD` and a poll. -/
theorem lineEvents_without_operand (base : Nat) (i : Instr) :
    lineEvents base ⟨i, none⟩ = [cmdWrite (encode i), statusRead] := by
  rw [lineEvents, expand, List.filterMap_cons_some (busEvent_cmd _ _)]
  rfl

/-- R88: a line with an operand writes it to `ARG` first. -/
theorem lineEvents_with_operand (base : Nat) (i : Instr) (v : Word) :
    lineEvents base ⟨i, some v⟩ = [argWrite v, cmdWrite (encode i), statusRead] := by
  rw [lineEvents, expand, List.filterMap_cons_some (busEvent_arg _ _), List.filterMap_cons_some (busEvent_cmd _ _)]
  rfl

/-- The command word and the poll of `STATUS` after it, in an idle state: the command runs, and the poll answers the
status word of its outcome. -/
theorem run_command_then_poll {i : Instr} {s t : State} {rest : List HostEvent}
    (hh : s.host = cmdWrite (encode i) :: statusRead :: rest) (hb : s.busy = false)
    (h : exec i { s with host := statusRead :: rest, busy := true } = .next t) :
    Sys2Proof.core.run 2 s = .next { t with host := rest, replies := t.replies ++ [.data (readReg t 0x08#6)] } := by
  have hcmd : step s = .next t := by
    rw [stepRunsTheDecodedCommand s _ i _ hh hb (decode_encode i), h]
  obtain ⟨-, -, hhost, -⟩ := exec_outside h
  have hpoll : step t = .next { t with host := rest, replies := t.replies ++ [.data (readReg t 0x08#6)] } := by
    rw [step_of_event hhost]
    exact handleEvent_read _ (by decide)
  rw [run_cons hcmd, run_cons hpoll]
  rfl

/-- Settles O55: the write to `ARG`, if there is one, is a step of its own before the command and the poll. -/
theorem assembledLineRunsItsCommand : Obligations.AssembledLineRunsItsCommand := by
  unfold Obligations.AssembledLineRunsItsCommand
  rintro base ⟨i, operand⟩ s t rest hb h
  obtain ⟨-, -, -, -, -, hidle⟩ := exec_outside h
  refine ⟨?_, by rw [readReg_status, statusWord_busy, hidle]⟩
  cases operand with
  | none =>
    rw [lineEvents_without_operand]
    exact run_command_then_poll rfl hb h
  | some v =>
    rw [lineEvents_with_operand]
    have harg : step { s with host := argWrite v :: cmdWrite (encode i) :: statusRead :: rest } =
        .next { s with arg := v, host := cmdWrite (encode i) :: statusRead :: rest } := by
      rw [step_of_event rfl]
      exact handleEvent_argWrite_idle v hb
    exact (run_cons harg).trans (run_command_then_poll rfl hb h)

end Sys2Proof.Machine
end

section
/-! The frequency factorizer: the loop's invariants (R105, R107, R110), what makes it fail (R111), and its realisation in
bounded widths (R101). -/

namespace Sys2Proof.Machine

open Sys2Proof

/-! ### One pass (R104, R105) -/

theorem two_le_of_nextFactor {maxP d p k : Nat} (h : nextFactor maxP d p = some k) : 2 ≤ k := by
  obtain ⟨hfactor, -, -⟩ := nextFactor_cases h
  omega

/-- Every factor needs room for a doubling of the period. -/
theorem nextFactor_eq_none_of_lt {maxP d p : Nat} (h : maxP < p * 2) : nextFactor maxP d p = none := by
  cases hk : nextFactor maxP d p with
  | none => rfl
  | some k =>
    obtain ⟨-, -, hle⟩ := nextFactor_cases hk
    have hdouble := Nat.mul_le_mul_left p (two_le_of_nextFactor hk)
    omega

/-! ### The loop -/

theorem extract_succ_none {maxP d p : Nat} (n : Nat) (h : nextFactor maxP d p = none) :
    extract maxP (n + 1) d p = (d, p) := by
  simp only [extract, h]

theorem extract_succ_some {maxP d p k : Nat} (n : Nat) (h : nextFactor maxP d p = some k) :
    extract maxP (n + 1) d p = extract maxP n (d / k) (p * k) := by
  simp only [extract, h]

/-- R101: no pass enlarges the residual or takes the period above its bound. -/
theorem extract_le {maxP d p : Nat} (n : Nat) (hp : p ≤ maxP) :
    (extract maxP n d p).1 ≤ d ∧ (extract maxP n d p).2 ≤ maxP := by
  refine extract_keeps (fun d' p' => d' ≤ d ∧ p' ≤ maxP) ?_ n d p ⟨le_rfl, hp⟩
  rintro d' p' k hk ⟨hd, -⟩
  obtain ⟨-, -, hle⟩ := nextFactor_cases hk
  exact ⟨(Nat.div_le_self d' k).trans hd, hle⟩

/-- R104: every pass leaves a residual of at least 16. -/
theorem sixteen_le_extract {maxP d p : Nat} (n : Nat) (hd : 16 ≤ d) : 16 ≤ (extract maxP n d p).1 := by
  refine extract_keeps (fun d' _ => 16 ≤ d') ?_ n d p hd
  intro d' p' k hk _
  obtain ⟨-, hroom, -⟩ := nextFactor_cases hk
  exact (Nat.le_div_iff_mul_le (Nat.zero_lt_of_lt (two_le_of_nextFactor hk))).2 hroom

/-- R110: the roundings of the halvings do not add up, since dividing step by step is dividing by the product. -/
theorem extract_residual_eq_div (maxP n d : Nat) : (extract maxP n d 1).1 = d / (extract maxP n d 1).2 := by
  refine extract_keeps (fun d' p' => d' = d / p') ?_ n d 1 (Nat.div_one d).symm
  rintro _ p k - rfl
  exact Nat.div_div_eq_div_mul d p k

/-- A product of powers of 2, 3 and 5 (R107). -/
def IsTwoThreeFive (p : Nat) : Prop := ∃ a b e : Nat, p = 2 ^ a * 3 ^ b * 5 ^ e

theorem isTwoThreeFive_one : IsTwoThreeFive 1 := ⟨0, 0, 0, rfl⟩

theorem IsTwoThreeFive.mul_factor {p k : Nat} (hp : IsTwoThreeFive p) (hk : k = 5 ∨ k = 3 ∨ k = 2) :
    IsTwoThreeFive (p * k) := by
  obtain ⟨a, b, e, rfl⟩ := hp
  rcases hk with rfl | rfl | rfl
  · exact ⟨a, b, e + 1, by ring⟩
  · exact ⟨a, b + 1, e, by ring⟩
  · exact ⟨a + 1, b, e, by ring⟩

theorem extract_period_isTwoThreeFive (maxP n d : Nat) : IsTwoThreeFive (extract maxP n d 1).2 := by
  refine extract_keeps (fun _ p => IsTwoThreeFive p) ?_ n d 1 isTwoThreeFive_one
  intro d' p k hk hp
  obtain ⟨hfactor, -, -⟩ := nextFactor_cases hk
  exact hp.mul_factor (by omega)

/-- R105: a loop with one pass for each doubling that the bound has room for stops because no factor applies. -/
theorem nextFactor_extract_eq_none {maxP : Nat} :
    ∀ n d p, maxP < p * 2 ^ (n + 1) → nextFactor maxP (extract maxP n d p).1 (extract maxP n d p).2 = none := by
  intro n
  induction n with
  | zero => intro d p h; exact nextFactor_eq_none_of_lt (by simpa [extract] using h)
  | succ n ih =>
    intro d p h
    cases hk : nextFactor maxP d p with
    | none => rwa [extract_succ_none n hk]
    | some k =>
      rw [extract_succ_some n hk]
      refine ih _ _ (h.trans_le ?_)
      calc p * 2 ^ (n + 1 + 1) = p * 2 * 2 ^ (n + 1) := by ring
        _ ≤ p * k * 2 ^ (n + 1) := by gcongr; exact two_le_of_nextFactor hk

/-- R105: each of the loop's passes doubles the period at least, and the last one is still within the bound. -/
theorem mul_two_pow_length_factorSteps_le {maxP : Nat} :
    ∀ n d p, p ≤ maxP → p * 2 ^ (factorSteps maxP n d p).length ≤ maxP := by
  intro n
  induction n with
  | zero => intro d p hp; simpa [factorSteps] using hp
  | succ n ih =>
    intro d p hp
    unfold factorSteps
    cases hk : nextFactor maxP d p with
    | none => simpa using hp
    | some k =>
      obtain ⟨-, -, hle⟩ := nextFactor_cases hk
      have hk2 := two_le_of_nextFactor hk
      calc p * 2 ^ ((factorSteps maxP n (d / k) (p * k)).length + 1)
          = p * 2 * 2 ^ (factorSteps maxP n (d / k) (p * k)).length := by ring
        _ ≤ p * k * 2 ^ (factorSteps maxP n (d / k) (p * k)).length := by gcongr
        _ ≤ maxP := ih _ _ hle

/-! ### The starting divisor (R103) -/

/-- R103: the starting divisor is within 1/2 of 256·C/F. -/
theorem startDivisor_bounds {f : Nat} (c : Nat) (hf : 1 ≤ f) :
    2 * f * startDivisor f c ≤ 512 * c + f ∧ 512 * c ≤ 2 * f * startDivisor f c + f := by
  have hdiv := Nat.div_add_mod (512 * c + f) (2 * f)
  have hmod := Nat.mod_lt (512 * c + f) (show 0 < 2 * f by omega)
  unfold startDivisor
  omega

theorem thirtyTwo_le_startDivisor {f c : Nat} (hf : 16 ≤ f) (hc : f ≤ 8 * c) : 32 ≤ startDivisor f c :=
  (Nat.le_div_iff_mul_le (by omega)).2 (by omega)

/-- R101: the starting divisor of a 32-bit clock fits 37 bits. -/
theorem startDivisor_lt {f c : Nat} (hf : 16 ≤ f) (hc : c < 2 ^ 32) : startDivisor f c < 2 ^ 37 :=
  (Nat.div_lt_iff_lt_mul (by omega)).2 (by omega)

/-! ### Results and failures (R106, R107, R111) -/

/-- R106: the test for a residual below 16 never fires. -/
theorem sixteen_le_extraction {maxP f c : Nat} (hf : 16 ≤ f) (hc : f ≤ 8 * c) : 16 ≤ (extraction maxP f c).1 :=
  sixteen_le_extract _ (by have := thirtyTwo_le_startDivisor hf hc; omega)

/-- R111: the failure set. -/
theorem factorize_eq_none_iff {maxP f c : Nat} :
    factorize maxP f c = none ↔ f < 16 ∨ 8 * c < f ∨ 4096 ≤ (extraction maxP f c).1 := by
  unfold factorize
  split
  · simp [*]
  · split
    · simp [*]
    · have hresidual := sixteen_le_extraction (maxP := maxP) (f := f) (c := c) (by omega) (by omega)
      split
      · simp only [true_iff]
        omega
      · simp only [reduceCtorEq, false_iff]
        omega

/-- Settles O45, by the ranges that the loop keeps and by the factors of each pass. -/
theorem factorizerResultRanges : Obligations.FactorizerResultRanges := by
  unfold Obligations.FactorizerResultRanges
  intro maxP f c P D hmin hmax h
  obtain ⟨-, -, he, hD, hD'⟩ := factorize_eq_some h
  have hrange := extraction_period_range f c hmin
  have hproduct : IsTwoThreeFive (extraction maxP f c).2 := extract_period_isTwoThreeFive _ _ _
  rw [he] at hrange hproduct
  exact ⟨hrange.1, hrange.2, hD, by omega, by omega, by omega, by omega, by omega, hproduct⟩

/-- Settles O46: the residual is the quotient of the starting divisor by the period, so what is lost is the remainder. -/
theorem factorizerAccuracy : Obligations.FactorizerAccuracy := by
  unfold Obligations.FactorizerAccuracy
  rintro maxP f c P D d0 h (rfl : d0 = startDivisor f c)
  obtain ⟨hf, -, he, hD, -⟩ := factorize_eq_some h
  have hquot : D = startDivisor f c / P := by
    have := extract_residual_eq_div maxP maxPasses (startDivisor f c)
    rwa [← extraction, he] at this
  have hP : 0 < P := Nat.pos_of_ne_zero (by rintro rfl; rw [Nat.div_zero] at hquot; omega)
  have hle : P * D ≤ startDivisor f c := hquot ▸ Nat.mul_div_le _ _
  have hlost : startDivisor f c - P * D < P := by
    rw [hquot, ← Nat.mod_eq_sub_mul_div]
    exact Nat.mod_lt _ hP
  refine ⟨hle, hlost, ?_, hD, startDivisor_bounds c (by omega)⟩
  calc (startDivisor f c - P * D) * D < P * D := Nat.mul_lt_mul_of_pos_right hlost (by omega)
    _ ≤ startDivisor f c := hle

/-- Settles O47: the period at least doubles with each pass, so 15 passes leave no room under 2^16. -/
theorem factorizerLoopTerminates : Obligations.FactorizerLoopTerminates := by
  unfold Obligations.FactorizerLoopTerminates
  refine ⟨fun _ _ _ _ => two_le_of_nextFactor, fun maxP n d hmin => ?_, by decide, fun maxP f c _ hmax => ?_⟩
  · have hpow := mul_two_pow_length_factorSteps_le n d 1 hmin
    rw [Nat.one_mul] at hpow
    exact (Nat.le_log2 (by omega)).2 hpow
  · exact nextFactor_extract_eq_none maxPasses _ 1 (by rw [maxPasses]; omega)

/-- Settles O48: the residual is never below 16, so the residual check is the test for 4096. -/
theorem factorizerFailureSet : Obligations.FactorizerFailureSet :=
  ⟨fun _ _ _ => factorize_eq_none_iff, fun _ _ _ hf hc =>
    ⟨thirtyTwo_le_startDivisor hf hc, sixteen_le_extraction hf hc⟩⟩

/-- Settles O49, by evaluation. -/
theorem factorizerWorkedExample : Obligations.FactorizerWorkedExample := by
  unfold Obligations.FactorizerWorkedExample
  decide

/-! ### The realisation in bounded widths (R101) -/

/-- A product of the period with a factor fits 19 bits. -/
theorem toNat_product (p : Level) {k : Nat} (hk : k ≤ 5) :
    (p.setWidth 19 * BitVec.ofNat 19 k).toNat = p.toNat * k := by
  have hp := p.isLt
  have hprod := Nat.mul_le_mul_left p.toNat hk
  rw [BitVec.toNat_mul, BitVec.toNat_setWidth, BitVec.toNat_ofNat, Nat.mod_eq_of_lt (a := k) (by omega),
    Nat.mod_eq_of_lt (a := p.toNat) (by omega), Nat.mod_eq_of_lt (by omega)]

theorem product_le_iff (p maxP : Level) {k : Nat} (hk : k ≤ 5) :
    p.setWidth 19 * BitVec.ofNat 19 k ≤ maxP.setWidth 19 ↔ p.toNat * k ≤ maxP.toNat := by
  have hmax := maxP.isLt
  rw [BitVec.le_def, toNat_product p hk, BitVec.toNat_setWidth, Nat.mod_eq_of_lt (by omega)]

theorem residual_mod_eq_zero_iff (d : BitVec 37) {k : Nat} (hk : k ≤ 5) :
    d % BitVec.ofNat 37 k = 0#37 ↔ d.toNat % k = 0 := by
  rw [← BitVec.toNat_inj, BitVec.toNat_umod, BitVec.toNat_ofNat, Nat.mod_eq_of_lt (a := k) (by omega)]
  rfl

/-- A pass in the widths of R101 extracts the factor that R104 extracts. -/
theorem nextFactorW_toNat (maxP : Level) (d : BitVec 37) (p : Level) :
    (nextFactorW maxP d p).map BitVec.toNat = nextFactor maxP.toNat d.toNat p.toNat := by
  have hguard (m : Nat) (hm : m < 2 ^ 37) : BitVec.ofNat 37 m ≤ d ↔ m ≤ d.toNat := by
    rw [BitVec.le_def, BitVec.toNat_ofNat, Nat.mod_eq_of_lt hm]
  simp only [nextFactorW, nextFactor, product_le_iff, residual_mod_eq_zero_iff, hguard, Nat.reduceLeDiff, Nat.reducePow,
    Nat.reduceLT, apply_ite (Option.map BitVec.toNat), Option.map_some, Option.map_none, BitVec.toNat_ofNat,
    Nat.reduceMod]

/-- The loop in the widths of R101 computes the loop of R100: an extracted factor is at most 5, and the new period stays
within its 16-bit bound. -/
theorem extractW_toNat (maxP : Level) :
    ∀ n (d : BitVec 37) (p : Level),
      ((extractW maxP n d p).1.toNat, (extractW maxP n d p).2.toNat) = extract maxP.toNat n d.toNat p.toNat := by
  intro n
  induction n with
  | zero => intro d p; rfl
  | succ n ih =>
    intro d p
    have hpass := nextFactorW_toNat maxP d p
    unfold extractW
    cases hk : nextFactorW maxP d p with
    | none =>
      rw [hk] at hpass
      exact (extract_succ_none n hpass.symm).symm
    | some k =>
      rw [hk] at hpass
      have hfactor := hpass.symm
      obtain ⟨hcases, -, hle⟩ := nextFactor_cases hfactor
      have hmax := maxP.isLt
      have hperiod : (p * k.setWidth 16).toNat = p.toNat * k.toNat := by
        rw [BitVec.toNat_mul, BitVec.toNat_setWidth, Nat.mod_eq_of_lt (a := k.toNat) (by omega),
          Nat.mod_eq_of_lt (by omega)]
      rw [extract_succ_some n hfactor, ← BitVec.toNat_udiv, ← hperiod]
      exact ih (d / k) (p * k.setWidth 16)

/-- The starting divisor in the widths of R101. -/
def startDivisorW (f c : Word) : BitVec 37 :=
  ((512#42 * c.setWidth 42 + f.setWidth 42) / (2#42 * f.setWidth 42)).setWidth 37

theorem toNat_startDivisorW {f c : Word} (hf : 16 ≤ f.toNat) :
    (startDivisorW f c).toNat = startDivisor f.toNat c.toNat := by
  have hc := c.isLt
  have hf' := f.isLt
  have hnum : (512#42 * c.setWidth 42 + f.setWidth 42).toNat = 512 * c.toNat + f.toNat := by
    simp only [BitVec.toNat_add, BitVec.toNat_mul, BitVec.toNat_setWidth, BitVec.toNat_ofNat]
    omega
  have hden : (2#42 * f.setWidth 42).toNat = 2 * f.toNat := by
    simp only [BitVec.toNat_mul, BitVec.toNat_setWidth, BitVec.toNat_ofNat]
    omega
  rw [startDivisorW, BitVec.toNat_setWidth, BitVec.toNat_udiv, hnum, hden]
  exact Nat.mod_eq_of_lt (startDivisor_lt hf hc)

/-- Residual divider and period after the extraction, in the widths of R101. -/
def extractionW (maxP : Level) (f c : Word) : BitVec 37 × Level :=
  extractW maxP maxPasses (startDivisorW f c) 1#16

theorem extractionW_toNat (maxP : Level) {f c : Word} (hf : 16 ≤ f.toNat) :
    extraction maxP.toNat f.toNat c.toNat = ((extractionW maxP f c).1.toNat, (extractionW maxP f c).2.toNat) := by
  rw [extraction, ← toNat_startDivisorW hf]
  exact (extractW_toNat maxP maxPasses (startDivisorW f c) 1#16).symm

/-- The range check `F > 8·C` in 35 bits. -/
theorem rangeCheckW_iff (f c : Word) : 8#35 * c.setWidth 35 < f.setWidth 35 ↔ 8 * c.toNat < f.toNat := by
  have hc := c.isLt
  have hf := f.isLt
  simp only [BitVec.lt_def, BitVec.toNat_mul, BitVec.toNat_setWidth, BitVec.toNat_ofNat]
  omega

/-- R101: the realisation and the unbounded factorizer agree, test by test and value by value. -/
theorem factorizeW_eq_factorizeWord (maxP : Level) (f c : Word) : factorizeW maxP f c = factorizeWord maxP.toNat f c := by
  have hlow : f < 16#32 ↔ f.toNat < 16 := BitVec.lt_def
  simp only [factorizeW, factorizeWord, factorize, hlow, rangeCheckW_iff]
  split
  · rfl
  · next hf =>
    split
    · rfl
    · have hextraction := extractionW_toNat maxP (f := f) (c := c) (by omega)
      unfold extractionW startDivisorW at hextraction
      simp only [hextraction, BitVec.lt_def, BitVec.le_def, BitVec.toNat_ofNat, Nat.reducePow, Nat.reduceMod]
      split
      · rfl
      · simp only [Option.map_some, BitVec.ofNat_toNat, BitVec.setWidth_eq]

/-- Settles O50: the bounds one by one, and the agreement. -/
theorem factorizerRealisationIsExact : Obligations.FactorizerRealisationIsExact := by
  unfold Obligations.FactorizerRealisationIsExact
  refine ⟨fun f c => ?_, fun maxP n d hmin => extract_le n hmin, fun p => ?_, factorizeW_eq_factorizeWord⟩
  · have hc := c.isLt
    have hf := f.isLt
    exact ⟨by omega, by omega, fun h => startDivisor_lt h hc⟩
  · have hp := p.isLt
    omega

end Sys2Proof.Machine
end

section
/-! The duty mapper: the two levels by decay mode and sign of the duty (R121 to R126, R129, R130), and the levels of a
motor that stays disabled (R127). -/

namespace Sys2Proof.Machine

open Sys2Proof

/-! ### The rules for the two levels (R122, R123) -/

theorem steer_slow_of_nonneg {sd : Int} (period : Nat) (h : 0 ≤ sd) : steer sd period .slow = (↑period, period - sd) :=
  if_pos h

theorem steer_slow_of_neg {sd : Int} (period : Nat) (h : sd < 0) : steer sd period .slow = (period + sd, ↑period) :=
  if_neg (not_le.2 h)

theorem steer_fast_of_nonneg {sd : Int} (period : Nat) (h : 0 ≤ sd) : steer sd period .fast = (sd, 0) :=
  if_pos h

theorem steer_fast_of_neg {sd : Int} (period : Nat) (h : sd < 0) : steer sd period .fast = (0, -sd) :=
  if_neg (not_le.2 h)

/-- Settles O51: the levels as numbers are those of `steer`, taken at each sign of the duty. -/
theorem dutyMapperFormulas : Obligations.DutyMapperFormulas := by
  unfold Obligations.DutyMapperFormulas
  intro speed sd period hmin hmax hsd
  change sd = signedDuty speed period.toNat at hsd
  have hbound := signedDuty_natAbs_le (period := period.toNat) hmin hmax
  obtain ⟨hslowPos, hslowNeg⟩ := dutyMap_toNat period .slow hmin hmax
  obtain ⟨hfastPos, hfastNeg⟩ := dutyMap_toNat period .fast hmin hmax
  rw [← hsd] at hbound hslowPos hslowNeg hfastPos hfastNeg
  refine ⟨by omega, by omega, fun h => ?_, fun h => ?_⟩
  · rw [steer_slow_of_nonneg _ h] at hslowPos hslowNeg
    rw [steer_fast_of_nonneg _ h] at hfastPos hfastNeg
    exact ⟨BitVec.eq_of_toNat_eq (Int.ofNat.inj hslowPos), hslowNeg, hfastPos,
      BitVec.eq_of_toNat_eq (Int.ofNat.inj hfastNeg)⟩
  · rw [steer_slow_of_neg _ h] at hslowPos hslowNeg
    rw [steer_fast_of_neg _ h] at hfastPos hfastNeg
    exact ⟨hslowPos, BitVec.eq_of_toNat_eq (Int.ofNat.inj hslowNeg),
      BitVec.eq_of_toNat_eq (Int.ofNat.inj hfastPos), hfastNeg⟩

/-! ### The two levels together (R124, R125, R126, R129) -/

/-- R129: a speed too small for the period rounds to a duty of 0. -/
theorem signedDuty_eq_zero {speed : Int} {period : Nat} (h : speed.natAbs * period < 32768) :
    signedDuty speed period = 0 := by
  rw [signedDuty, Nat.div_eq_of_lt (by omega)]
  simp

/-- Settles O52: read as numbers, the formulas of O51 at each sign of the duty give every clause but the last, which is
the rounding. -/
theorem dutyMapperInvariants : Obligations.DutyMapperInvariants := by
  unfold Obligations.DutyMapperInvariants
  intro speed sd period slow fast hmin hmax hsd hslow hfast
  obtain ⟨hlo, hhi, hnonneg, hneg⟩ := dutyMapperFormulas speed sd period hmin hmax hsd
  have hzero : speed.natAbs * period.toNat < 32768 → sd = 0 := fun h => hsd.trans (signedDuty_eq_zero h)
  rw [← hslow, ← hfast] at hnonneg hneg
  simp only [Prod.ext_iff, ne_eq, ← BitVec.toNat_inj, BitVec.toNat_ofNat, Nat.zero_mod] at hnonneg hneg ⊢
  rcases lt_or_ge sd 0 with h | h
  · have hlevels := hneg h
    omega
  · have hlevels := hnonneg h
    omega

/-! ### Negating the speed (R130) -/

theorem signedDuty_neg (speed : Int) (period : Nat) : signedDuty (-speed) period = -signedDuty speed period := by
  simp only [signedDuty, Int.sign_neg, Int.natAbs_neg, Int.neg_mul]

theorem steer_neg (sd : Int) (period : Nat) (m : Decay) : steer (-sd) period m = (steer sd period m).swap := by
  rcases lt_trichotomy sd 0 with h | rfl | h
  · have h' : 0 ≤ -sd := by omega
    cases m
    · rw [steer_fast_of_neg _ h, steer_fast_of_nonneg _ h', Prod.swap_prod_mk]
    · rw [steer_slow_of_neg _ h, steer_slow_of_nonneg _ h', Prod.swap_prod_mk, sub_neg_eq_add]
  · cases m <;> simp [steer]
  · have h' : -sd < 0 := by omega
    cases m
    · rw [steer_fast_of_nonneg _ h.le, steer_fast_of_neg _ h', Prod.swap_prod_mk, neg_neg]
    · rw [steer_slow_of_nonneg _ h.le, steer_slow_of_neg _ h', Prod.swap_prod_mk, sub_eq_add_neg]

/-- Settles O53: negating the speed negates the duty, and that swaps the levels. -/
theorem dutyMapperSymmetry : Obligations.DutyMapperSymmetry := by
  unfold Obligations.DutyMapperSymmetry
  intro speed period m _ _
  simp only [dutyMap, signedDuty_neg, steer_neg, Prod.fst_swap, Prod.snd_swap]

/-! ### The levels of a disabled motor (R127, R187) -/

theorem sinkLevel_not_mem {ts : List Txn} (h : ∀ t ∈ ts, isLevel t = false) (ch : PinId) (l : Level) :
    .sinkLevel ch l ∉ ts := fun hmem => Bool.noConfusion (h _ hmem)

theorem eq_of_sinkLevel_mem_levelTxns {c : Config} {out : Level × Level} {ch : PinId} {l : Level}
    (h : .sinkLevel ch l ∈ levelTxns c out) : l = out.1 ∨ l = out.2 := by
  simp only [levelTxns, List.mem_cons, Txn.sinkLevel.injEq, List.not_mem_nil, or_false] at h
  exact h.imp And.right And.right

theorem sinkLevel_mem_initTxns {n : State} {ch : PinId} {l : Level} :
    .sinkLevel ch l ∈ initTxns n ↔ .sinkLevel ch l ∈ levelTxns n.cfg (outputLevels n) := by
  simp [initTxns, sinkLevel_not_mem (configTxns_no_level _ _ _), sinkLevel_not_mem (enableTxns_no_level _),
    sinkLevel_not_mem (claimTxns_no_level _)]

theorem sinkLevel_mem_frequencyTxns {old : Level} {n : State} {ch : PinId} {l : Level} :
    .sinkLevel ch l ∈ frequencyTxns old n ↔ .sinkLevel ch l ∈ levelTxns n.cfg (outputLevels n) := by
  unfold frequencyTxns
  split <;> simp [sinkLevel_not_mem (dividerTxns_no_level _ _), sinkLevel_not_mem (wrapTxns_no_level _ _)]

/-- A command emits no level but the output levels of its new state (R128). -/
theorem Prepares.level_eq {i : Instr} {s n : State} {ts : List Txn} (h : Prepares s i n ts) {ch : PinId} {l : Level}
    (hmem : .sinkLevel ch l ∈ ts) : l = (outputLevels n).1 ∨ l = (outputLevels n).2 := by
  cases h with
  | init => exact eq_of_sinkLevel_mem_levelTxns (sinkLevel_mem_initTxns.1 hmem)
  | setFrequency => exact eq_of_sinkLevel_mem_levelTxns (sinkLevel_mem_frequencyTxns.1 hmem)
  | query => cases hmem
  | teardown => exact absurd hmem (sinkLevel_not_mem (releaseTxns_no_level _) ch l)
  | _ => exact eq_of_sinkLevel_mem_levelTxns hmem

theorem outputLevels_of_disabled {s : State} (h : s.enabled = false) : outputLevels s = (0#16, 0#16) := by
  simp [outputLevels, h]

theorem Prepares.newTxns_eq {i : Instr} {s n : State} {ts : List Txn} (h : Prepares s i n ts) :
    newTxns s (finish .ok (emitAll ts n)) = ts := by
  obtain ⟨-, -, -, htrace⟩ := h.not_yet_emitted
  simp [newTxns, htrace]

/-- Settles O35: a rejected command emits nothing, and a successful one the output levels of a state that is disabled
still. -/
theorem disabledMotorStaysNonDriving : Obligations.DisabledMotorStaysNonDriving := by
  unfold Obligations.DisabledMotorStaysNonDriving
  intro i s t h hs hinit hspeed hstop
  rcases exec_outcome h with hr | ⟨n, ts, hp, rfl⟩
  · obtain ⟨-, ht⟩ := hr.frame
    rw [ht]
    exact ⟨hs, by simp [newTxns]⟩
  · have hn : n.enabled = false := by simp [hp.enabled, hinit, hspeed, hstop, hs]
    refine ⟨by simpa using hn, fun ch l hmem => ?_⟩
    rw [hp.newTxns_eq] at hmem
    simpa [outputLevels_of_disabled hn] using hp.level_eq hmem

end Sys2Proof.Machine
end

section
/-! The lifecycle commands INIT and TEARDOWN, whole (R140 to R148), and that no run without a reset releases a pin twice
(R147). -/

namespace Sys2Proof.Machine

open Sys2Proof

/-! ### Steps that are no reset -/

/-- A step uses up the event at the head of the host's list and leaves the rest of the list. -/
theorem step_host {s t : State} (h : step s = .next t) : t.host = s.host.tail := by
  rcases step_cases h with ⟨hh, rfl⟩ | ⟨width, offset, es, hh, hr⟩ | ⟨width, offset, v, es, hh, hw⟩ | ⟨es, hh, rfl⟩ |
    ⟨w, k, es, d, hh, -, hd, rfl⟩
  · simp [hh]
  · rcases hostRead_cases hr with ⟨-, rfl⟩ | ⟨-, rfl⟩ <;> simp [hh]
  · rcases hostWrite_kinds hw with ht | ⟨-, -, -, hs⟩
    · rw [ht, hh]
      rfl
    · obtain ⟨-, -, hhost, -⟩ := startCommand_outside hs
      rw [hhost, hh]
      rfl
  · simp [hh]
  · obtain ⟨-, -, hhost, -⟩ := startCommand_outside hd
    simpa [abandonCommand, hh] using hhost

/-- No event that is still to come asserts reset. -/
def NoReset (s : State) : Prop := ∀ e ∈ s.host, isReset e = false

theorem noReset_of_step {s t : State} (hno : NoReset s) (h : step s = .next t) : NoReset t := by
  unfold NoReset
  rw [step_host h]
  exact fun e he => hno e (List.mem_of_mem_tail he)

/-- A step that is no reset runs a command word, or it touches neither the lifecycle state nor the trace. -/
theorem step_kinds_of_noReset {s t : State} (hno : NoReset s) (h : step s = .next t) :
    (t.life = s.life ∧ t.trace = s.trace) ∨ (∃ w es, startCommand w { s with host := es } = .next t) := by
  rcases step_kinds h with ht | ⟨w, es, -, -, hw⟩ | ⟨e, es, u, hh, he, -, -⟩
  · rw [ht]
    exact .inl ⟨rfl, rfl⟩
  · exact .inr ⟨w, es, hw⟩
  · simp [hno e (by simp [hh])] at he

/-- What every step that is no reset keeps holds at the end of a run without a reset. -/
theorem run_keeps_without_reset {P : State → Prop}
    (hstep : ∀ s t, NoReset s → P s → step s = .next t → P t) {n : Nat} {s t : State} (hno : NoReset s) (hs : P s)
    (h : Sys2Proof.core.run n s = .next t) : P t := by
  have hboth : NoReset t ∧ P t :=
    run_keeps (P := fun u => NoReset u ∧ P u)
      (fun u v ⟨hu, hP⟩ huv => ⟨noReset_of_step hu huv, hstep u v hu hP huv⟩) ⟨hno, hs⟩ h
  exact hboth.2

/-! ### Releases of a pin (R147) -/

/-- The releases of a pin so far, and one more for the TEARDOWN that a block not torn down has still before it. -/
def releaseBound (pin : PinId) (s : State) : Nat :=
  s.trace.count (.pinRelease pin) + if s.life = .tornDown then 0 else 1

theorem releaseBound_congr (pin : PinId) {s t : State} (hl : t.life = s.life) (ht : t.trace = s.trace) :
    releaseBound pin t = releaseBound pin s := by
  rw [releaseBound, releaseBound, hl, ht]

theorem pinRelease_not_mem_perSlice {c : Config} {f : PinId → Txn} {pin : PinId} (h : ∀ ch, .pinRelease pin ≠ f ch) :
    .pinRelease pin ∉ perSlice c f := by
  unfold perSlice
  split <;> simp [h]

theorem pinRelease_not_mem_levelTxns (c : Config) (l : Level × Level) (pin : PinId) :
    .pinRelease pin ∉ levelTxns c l := by
  simp [levelTxns]

theorem pinRelease_not_mem_initTxns (n : State) (pin : PinId) : .pinRelease pin ∉ initTxns n := by
  have hconfig : .pinRelease pin ∉ configTxns n.cfg n.period n.div16 := pinRelease_not_mem_perSlice nofun
  have henable : .pinRelease pin ∉ enableTxns n.cfg := pinRelease_not_mem_perSlice nofun
  simp [initTxns, claimTxns, hconfig, henable, pinRelease_not_mem_levelTxns]

theorem pinRelease_not_mem_frequencyTxns (old : Level) (n : State) (pin : PinId) :
    .pinRelease pin ∉ frequencyTxns old n := by
  have hdivider : .pinRelease pin ∉ dividerTxns n.cfg n.div16 := pinRelease_not_mem_perSlice nofun
  have hwrap : .pinRelease pin ∉ wrapTxns n.cfg n.period := pinRelease_not_mem_perSlice nofun
  unfold frequencyTxns
  split <;> simp [hdivider, hwrap, pinRelease_not_mem_levelTxns]

/-- The two pins differ (R8), so TEARDOWN releases each once. -/
theorem count_pinRelease_releaseTxns_le (c : Config) (pin : PinId) : (releaseTxns c).count (.pinRelease pin) ≤ 1 := by
  have hnodup : (releaseTxns c).Nodup := by simp [releaseTxns, config_pins_ne c]
  exact List.nodup_iff_count_le_one.1 hnodup _

theorem Prepares.not_tornDown {i : Instr} {s n : State} {ts : List Txn} (h : Prepares s i n ts) :
    s.life ≠ .tornDown := by
  cases h with
  | init _ _ hl => exact hl
  | query _ _ hl => exact hl
  | teardown hl => exact hl
  | setSpeed hl => simp [hl]
  | setFrequency _ _ hl => simp [hl]
  | setDecayMode _ hl => simp [hl]
  | stop hl => simp [hl]
  | disable hl => simp [hl]

/-- Only TEARDOWN releases pins (R146). -/
theorem Prepares.pinRelease_not_mem {i : Instr} {s n : State} {ts : List Txn} (h : Prepares s i n ts)
    (hi : i ≠ .teardown) (pin : PinId) : .pinRelease pin ∉ ts := by
  cases h with
  | init => exact pinRelease_not_mem_initTxns _ pin
  | setFrequency => exact pinRelease_not_mem_frequencyTxns _ _ pin
  | query => exact List.not_mem_nil
  | teardown => exact absurd rfl hi
  | _ => exact pinRelease_not_mem_levelTxns _ _ pin

/-- A command that releases a pin leaves the block torn down. -/
theorem Succeeds.releaseBound_le {i : Instr} {s t : State} (h : Succeeds i s t) (pin : PinId) :
    releaseBound pin t ≤ releaseBound pin s := by
  obtain ⟨n, ts, hp, rfl⟩ := h
  obtain ⟨-, -, -, htrace⟩ := hp.not_yet_emitted
  have hs : releaseBound pin s = s.trace.count (.pinRelease pin) + 1 := by simp [releaseBound, hp.not_tornDown]
  have ht : releaseBound pin (finish .ok (emitAll ts n)) =
      s.trace.count (.pinRelease pin) + ts.count (.pinRelease pin) + if n.life = .tornDown then 0 else 1 := by
    simp [releaseBound, htrace]
  rw [hs, ht]
  by_cases hi : i = .teardown
  · subst hi
    cases hp with
    | query _ hq => simp at hq
    | teardown => simpa using count_pinRelease_releaseTxns_le s.cfg pin
  · rw [List.count_eq_zero.2 (hp.pinRelease_not_mem hi pin)]
    split <;> omega

theorem exec_releaseBound_le {i : Instr} {s t : State} (h : exec i s = .next t) (pin : PinId) :
    releaseBound pin t ≤ releaseBound pin s := by
  rcases exec_outcome h with hr | hsucc
  · exact (releaseBound_congr pin (by rw [hr.frame.2]) hr.trace).le
  · exact hsucc.releaseBound_le pin

theorem step_releaseBound_le {s t : State} (hno : NoReset s) (h : step s = .next t) (pin : PinId) :
    releaseBound pin t ≤ releaseBound pin s := by
  rcases step_kinds_of_noReset hno h with ⟨hl, ht⟩ | ⟨w, es, hw⟩
  · exact (releaseBound_congr pin hl ht).le
  · rcases startCommand_cases hw with ⟨i, -, hi⟩ | ⟨r, -, rfl⟩
    · exact exec_releaseBound_le hi pin
    · exact (releaseBound_congr pin rfl rfl).le

theorem run_trace {n : Nat} {s t : State} (h : Sys2Proof.core.run n s = .next t) : s.trace <+: t.trace :=
  run_keeps (P := fun u => s.trace <+: u.trace) (fun u v hu huv => hu.trans (traceOnlyGrows.2 u v huv))
    List.prefix_rfl h

/-- The bound at the end of a run is at most the one at its beginning, so the run releases a pin at most once. -/
theorem count_newTxns_le_one {n : Nat} {s t : State} (pin : PinId) (hno : NoReset s)
    (h : Sys2Proof.core.run n s = .next t) : (newTxns s t).count (.pinRelease pin) ≤ 1 := by
  have hbound : releaseBound pin t ≤ releaseBound pin s :=
    run_keeps_without_reset (P := fun u => releaseBound pin u ≤ releaseBound pin s)
      (fun u v hu hle huv => (step_releaseBound_le hu huv pin).trans hle) hno le_rfl h
  obtain ⟨new, hnew⟩ := run_trace h
  have hcount : t.trace.count (.pinRelease pin) = s.trace.count (.pinRelease pin) + new.count (.pinRelease pin) := by
    rw [← hnew, List.count_append]
  have hstart : releaseBound pin s ≤ s.trace.count (.pinRelease pin) + 1 := by
    unfold releaseBound
    split <;> omega
  have hend : t.trace.count (.pinRelease pin) ≤ releaseBound pin t := Nat.le_add_right _ _
  rw [newTxns, ← hnew, List.drop_left]
  omega

/-! ### A block that is torn down (R21, R147) -/

theorem startCommand_trace_of_tornDown {w : Word} {s t : State} (h : startCommand w s = .next t)
    (hl : s.life = .tornDown) : t.trace = s.trace := by
  rcases startCommand_cases h with ⟨i, -, hi⟩ | ⟨r, -, rfl⟩
  · rw [exec_of_tornDown i (s := { s with busy := true }) hl] at hi
    cases hi
    rfl
  · rfl

theorem step_of_tornDown {s t : State} (hno : NoReset s) (hl : s.life = .tornDown) (h : step s = .next t) :
    t.life = .tornDown ∧ t.trace = s.trace := by
  rcases step_kinds_of_noReset hno h with ⟨hlife, htrace⟩ | ⟨w, es, hw⟩
  · exact ⟨hlife.trans hl, htrace⟩
  · exact ⟨startCommand_of_tornDown hw hl, startCommand_trace_of_tornDown (s := { s with host := es }) hw hl⟩

/-- Settles O39: no step of a run without a reset raises the release bound of a pin, and each keeps a torn-down block as
it is. -/
theorem pinsAreReleasedAtMostOncePerReset : Obligations.PinsAreReleasedAtMostOncePerReset := by
  unfold Obligations.PinsAreReleasedAtMostOncePerReset
  refine ⟨fun n s t pin hno h => count_newTxns_le_one pin hno h, fun i s hl => exec_of_tornDown i hl,
    fun n s t hl hno h => ?_⟩
  refine run_keeps_without_reset (P := fun u => u.life = .tornDown ∧ u.trace = s.trace) ?_ hno ⟨hl, rfl⟩ h
  intro u v hu ⟨hul, hut⟩ huv
  obtain ⟨hlife, htrace⟩ := step_of_tornDown hu hul huv
  exact ⟨hlife, htrace.trans hut⟩

/-! ### INIT (R140 to R144) -/

theorem factorizeWord_eq_none {maxP : Nat} {f c : Word} (h : factorize maxP f.toNat c.toNat = none) :
    factorizeWord maxP f c = none := by
  rw [factorizeWord, h]
  rfl

theorem factorizeWord_of_factorize {maxP : Nat} {f c : Word} {P D : Nat}
    (h : factorize maxP f.toNat c.toNat = some (P, D)) :
    factorizeWord maxP f c = some (BitVec.ofNat 16 P, BitVec.ofNat 12 D) := by
  rw [factorizeWord, h]
  rfl

theorem exec_init_of_infeasible {s : State} (hl : s.life ≠ .tornDown)
    (hf : factorizeWord s.cfg.maxPwmPeriod s.cfg.defaultFreq (sampleClock s) = none) :
    exec .init s = .next (finish .infeasibleFrequency (afterSample s)) := by
  obtain ⟨t, ht⟩ := exec_next .init s
  rcases exec_init_cases ht with ⟨hl', -⟩ | ⟨-, -, rfl⟩ | ⟨p, d, -, hf', -⟩
  · exact absurd hl' hl
  · exact ht
  · simp [hf] at hf'

theorem exec_init_of_feasible {s : State} {p : Level} {d : Div16} (hl : s.life ≠ .tornDown)
    (hf : factorizeWord s.cfg.maxPwmPeriod s.cfg.defaultFreq (sampleClock s) = some (p, d)) :
    exec .init s =
      .next (finish .ok (emitAll (initTxns (initState p d (afterSample s))) (initState p d (afterSample s)))) := by
  obtain ⟨t, ht⟩ := exec_next .init s
  rcases exec_init_cases ht with ⟨hl', -⟩ | ⟨-, hf', -⟩ | ⟨p', d', -, hf', rfl⟩
  · exact absurd hl' hl
  · simp [hf] at hf'
  · obtain ⟨rfl, rfl⟩ : p = p' ∧ d = d' := by simpa [hf] using hf'
    exact ht

/-- R78: the two parts of a divider that fits its twelve bits. -/
theorem divInt_ofNat {D : Nat} (h : D < 4096) : divInt (BitVec.ofNat 12 D) = BitVec.ofNat 8 (D / 16) := by
  apply BitVec.eq_of_toNat_eq
  rw [toNat_divInt, BitVec.toNat_ofNat, BitVec.toNat_ofNat]
  omega

theorem divFrac_ofNat (D : Nat) : divFrac (BitVec.ofNat 12 D) = BitVec.ofNat 4 (D % 16) := by
  apply BitVec.eq_of_toNat_eq
  rw [toNat_divFrac, BitVec.toNat_ofNat, BitVec.toNat_ofNat]
  omega

/-- R125, R129: speed 0 drives both channels at the period in SlowDecay and at 0 in FastDecay. -/
theorem dutyMap_zero (p : Level) (m : Decay) :
    dutyMap 0 p m = (if m = .slow then p else 0#16, if m = .slow then p else 0#16) := by
  cases m <;> simp [dutyMap, signedDuty, steer]

theorem outputLevels_initState (p : Level) (d : Div16) (s : State) :
    outputLevels (initState p d s) = (if s.decay = .slow then p else 0#16, if s.decay = .slow then p else 0#16) :=
  dutyMap_zero p s.decay

/-- Settles O18: the clock sample decides between the failure and the programming of the sink, whose levels are those of
speed 0. -/
theorem initCommand : Obligations.InitCommand := by
  unfold Obligations.InitCommand
  refine ⟨decode_encode .init, fun s hl => exec_of_tornDown .init hl,
    fun s hl hf => exec_init_of_infeasible hl (factorizeWord_eq_none hf), fun s P D zeroLevel hl hf hzero => ?_⟩
  obtain ⟨-, -, -, -, hD⟩ := factorize_eq_some hf
  have hlevels : outputLevels (initState (BitVec.ofNat 16 P) (BitVec.ofNat 12 D) (afterSample s)) =
      (zeroLevel, zeroLevel) := by
    rw [outputLevels_initState, afterSample_decay, hzero]
  rw [exec_init_of_feasible hl (factorizeWord_of_factorize hf), emitAll_initTxns, initTxns, hlevels]
  cases hshared : s.cfg.sharedSlice <;>
    simp [finish, initState, configTxns, levelTxns, enableTxns, claimTxns, perSlice, hshared, divInt_ofNat hD,
      divFrac_ofNat]

/-! ### TEARDOWN (R146, R148) -/

/-- Settles O19: the command's two cases are told apart by the lifecycle state. -/
theorem teardownCommand : Obligations.TeardownCommand := by
  unfold Obligations.TeardownCommand
  refine ⟨decode_encode .teardown, fun s hl => exec_of_tornDown .teardown hl, fun s hl => ?_⟩
  obtain ⟨t, ht⟩ := exec_next .teardown s
  rcases exec_teardown_cases ht with ⟨hl', -⟩ | ⟨-, rfl⟩
  · exact absurd hl' hl
  · exact ht

end Sys2Proof.Machine
end

section
/-! The drive commands SET_SPEED, SET_DECAY_MODE, STOP and DISABLE, whole (R160 to R170): outside Ready each is
rejected, and in Ready SET_DECAY_MODE alone can be, for its operand; else the command drives the levels of a new state. -/

namespace Sys2Proof.Machine

open Sys2Proof

/-! ### The operands (R76, R160) -/

/-- Settles O43: the clamped speed fits the stored word, and the examples lie beyond the two ends of the clamp. -/
theorem speedIsClamped : Obligations.SpeedIsClamped := by
  unfold Obligations.SpeedIsClamped
  exact ⟨fun a => ⟨rfl, clampWord_toInt a⟩, by decide, by decide⟩

/-- R76: the operands that encode a decay mode are the words of the two bits. -/
theorem decayOperand_eq_some_iff {a : Word} {m : Decay} :
    decayOperand a = some m ↔ a.toNat = (decayBit m).toNat := by
  constructor
  · intro h
    rw [eq_decayBit_of_decayOperand h, BitVec.toNat_setWidth_of_le (by decide)]
  · intro h
    obtain rfl : a = (decayBit m).setWidth 32 := by
      rw [← BitVec.toNat_inj, h, BitVec.toNat_setWidth_of_le (by decide)]
    cases m <;> rfl

theorem decayOperand_eq_none {a : Word} (h : 2 ≤ a.toNat) : decayOperand a = none := by
  cases ha : decayOperand a with
  | none => rfl
  | some m =>
    have hbit := (decayBit m).isLt
    rw [decayOperand_eq_some_iff] at ha
    omega

/-! ### The lifecycle checks (R223) -/

theorem whenReady_of_ready {s : State} (hl : s.life = .ready) (body : State → State) : whenReady s body = body s := by
  simp only [whenReady, hl]

theorem whenReady_of_uninitialized {s : State} (hl : s.life = .uninitialized) (body : State → State) :
    whenReady s body = finish .notInitialized s := by
  simp only [whenReady, hl]

/-- In Uninitialized every mutator ends with NOT_INITIALIZED and does nothing else (R223). -/
theorem exec_of_uninitialized {i : Instr} (hi : isMutator i = true) {s : State} (hl : s.life = .uninitialized) :
    exec i s = .next (finish .notInitialized s) := by
  cases i with
  | setSpeed => exact congrArg _ (whenReady_of_uninitialized hl _)
  | setFrequency => exact congrArg _ (whenReady_of_uninitialized hl _)
  | setDecayMode => exact congrArg _ (whenReady_of_uninitialized hl _)
  | stop => exact congrArg _ (whenReady_of_uninitialized hl _)
  | disable => exact congrArg _ (whenReady_of_uninitialized hl _)
  | _ => cases hi

/-! ### The commands in Ready (R161, R164, R166, R168) -/

theorem exec_setSpeed_of_ready {s : State} (hl : s.life = .ready) :
    exec .setSpeed s = .next (driveLevels { s with speed := clampWord s.arg, enabled := true }) :=
  congrArg _ (whenReady_of_ready hl _)

theorem exec_setDecayMode_of_ready {s : State} (hl : s.life = .ready) {m : Decay}
    (hm : decayOperand s.arg = some m) : exec .setDecayMode s = .next (driveLevels { s with decay := m }) := by
  simp only [exec, execSetDecayMode, whenReady_of_ready hl, hm]

theorem exec_setDecayMode_of_badOperand {s : State} (hl : s.life = .ready) (hm : decayOperand s.arg = none) :
    exec .setDecayMode s = .next (finish .badOperand s) := by
  simp only [exec, execSetDecayMode, whenReady_of_ready hl, hm]

theorem exec_stop_of_ready {s : State} (hl : s.life = .ready) :
    exec .stop s = .next (driveLevels { s with speed := 0, enabled := true }) :=
  congrArg _ (whenReady_of_ready hl _)

/-- The raw zero levels of DISABLE are the output levels of a state that is not enabled (R127, R168). -/
theorem exec_disable_of_ready {s : State} (hl : s.life = .ready) :
    exec .disable s = .next (driveLevels { s with speed := 0, enabled := false }) :=
  congrArg _ (whenReady_of_ready hl _)

/-- The end of a level-writing command whose new state has the output levels `l` (R127, R128). -/
theorem driveLevels_of_outputLevels {n : State} {l : Level × Level} (h : outputLevels n = l) :
    driveLevels n =
      { n with
        trace := n.trace ++ [.sinkLevel n.cfg.pinPos l.1, .sinkLevel n.cfg.pinNeg l.2]
        levelPos := l.1
        levelNeg := l.2
        result := .ok
        busy := false } := by
  subst h
  exact driveLevels_eq n

/-! ### The output levels of the new states (R127) -/

theorem outputLevels_clampWord (s : State) :
    outputLevels { s with speed := clampWord s.arg, enabled := true } =
      dutyMap (clampSpeed s.arg) s.period s.decay := by
  simp [outputLevels, clampWord_toInt]

theorem outputLevels_zero_speed (s : State) :
    outputLevels { s with speed := 0, enabled := true } =
      (if s.decay = .slow then s.period else 0#16, if s.decay = .slow then s.period else 0#16) :=
  dutyMap_zero s.period s.decay

/-! ### The four commands, whole -/

/-- Settles O20: in Ready the levels driven are those of the clamped speed, which the stored word keeps. -/
theorem setSpeedCommand : Obligations.SetSpeedCommand := by
  unfold Obligations.SetSpeedCommand
  refine ⟨decode_encode .setSpeed, fun s hl => exec_of_tornDown .setSpeed hl,
    fun s hl => exec_of_uninitialized rfl hl, fun s speed l hl hspeed hlevels => ?_⟩
  subst hspeed hlevels
  rw [exec_setSpeed_of_ready hl, driveLevels_of_outputLevels (outputLevels_clampWord s)]
  rfl

/-- Settles O21: the operand decides between BAD_OPERAND and a mode, and the levels driven are those of the mode. -/
theorem setDecayModeCommand : Obligations.SetDecayModeCommand := by
  unfold Obligations.SetDecayModeCommand
  refine ⟨decode_encode .setDecayMode, fun s hl => exec_of_tornDown .setDecayMode hl,
    fun s hl => exec_of_uninitialized rfl hl,
    fun s hl ha => exec_setDecayMode_of_badOperand hl (decayOperand_eq_none ha), fun s m l hl ha hlevels => ?_⟩
  have hbit : s.arg.toNat = (decayBit m).toNat := by cases m <;> exact ha
  have hm : decayOperand s.arg = some m := decayOperand_eq_some_iff.2 hbit
  rw [exec_setDecayMode_of_ready hl hm, driveLevels_of_outputLevels (n := { s with decay := m }) hlevels.symm]

/-- R166: on an `ARG` of 0, SET_SPEED does what STOP does, in every lifecycle state. -/
theorem exec_setSpeed_zero (s : State) : exec .setSpeed { s with arg := 0#32 } = exec .stop { s with arg := 0#32 } := by
  have hclamp : clampWord 0#32 = 0 := by decide
  simp only [exec, execSetSpeed, execStop, whenReady, hclamp]

/-- Settles O22: in Ready the levels driven are those of speed 0, and STOP passes `ARG` on. -/
theorem stopCommand : Obligations.StopCommand := by
  unfold Obligations.StopCommand
  refine ⟨decode_encode .stop, fun s hl => exec_of_tornDown .stop hl, fun s hl => exec_of_uninitialized rfl hl,
    fun s l hl hlevel => ?_, fun s t h => ?_⟩
  · subst hlevel
    rw [exec_stop_of_ready hl, driveLevels_of_outputLevels (outputLevels_zero_speed s)]
    rfl
  · rw [exec_setSpeed_zero]
    exact exec_with_arg 0#32 (by decide) (by decide) (by decide) h

/-- Settles O23: the state DISABLE drives is not enabled, so its output levels are (0, 0). -/
theorem disableCommand : Obligations.DisableCommand := by
  unfold Obligations.DisableCommand
  refine ⟨decode_encode .disable, fun s hl => exec_of_tornDown .disable hl, fun s hl => exec_of_uninitialized rfl hl,
    fun s hl => ?_⟩
  rw [exec_disable_of_ready hl,
    driveLevels_of_outputLevels (outputLevels_of_disabled (s := { s with speed := 0, enabled := false }) rfl)]
  rfl

end Sys2Proof.Machine
end

section
/-! SET_FREQUENCY, whole (R180 to R184, R187, R188): what it does in each lifecycle state, with both update orders. -/

namespace Sys2Proof.Machine

open Sys2Proof

/-! ### The command in Ready (R180, R184) -/

theorem exec_setFrequency_of_infeasible {s : State} (hl : s.life = .ready)
    (hf : factorizeWord s.cfg.maxPwmPeriod s.arg (sampleClock s) = none) :
    exec .setFrequency s = .next (finish .infeasibleFrequency (afterSample s)) := by
  simp only [exec, execSetFrequency, whenReady_of_ready hl, setFrequencyBody, hf]

/-- A feasible SET_FREQUENCY, with its effect on the shadows and the trace. -/
theorem exec_setFrequency_of_feasible {s : State} {p : Level} {d : Div16} (hl : s.life = .ready)
    (hf : factorizeWord s.cfg.maxPwmPeriod s.arg (sampleClock s) = some (p, d)) :
    exec .setFrequency s = .next (finish .ok
      { frequencyState p d (afterSample s) with
        trace := s.trace ++ frequencyTxns s.period (frequencyState p d (afterSample s))
        levelPos := (outputLevels (frequencyState p d (afterSample s))).1
        levelNeg := (outputLevels (frequencyState p d (afterSample s))).2 }) := by
  simp only [exec, execSetFrequency, whenReady_of_ready hl, setFrequencyBody, hf, emitAll_frequencyTxns,
    frequencyState_trace, afterSample_trace]

/-- The output levels of the new state are those of the stored speed under the new period (R180, R187). -/
theorem outputLevels_frequencyState (p : Level) (d : Div16) (s : State) :
    outputLevels (frequencyState p d (afterSample s)) =
      if s.enabled = true then dutyMap s.speed.toInt p s.decay else (0#16, 0#16) := by
  simp [outputLevels]

/-- R79: the wrap of a period that fits its sixteen bits. -/
theorem wrapOf_ofNat {P : Nat} (hmin : 1 ≤ P) (hmax : P < 65536) :
    wrapOf (BitVec.ofNat 16 P) = BitVec.ofNat 16 (P - 1) := by
  have hP : (BitVec.ofNat 16 P).toNat = P := Nat.mod_eq_of_lt hmax
  apply BitVec.eq_of_toNat_eq
  rw [toNat_wrapOf (by omega), hP, BitVec.toNat_ofNat, Nat.mod_eq_of_lt (by omega)]

/-- Settles O24: the clock sample decides between the failure and the update, whose order the two periods decide. -/
theorem setFrequencyCommand : Obligations.SetFrequencyCommand := by
  unfold Obligations.SetFrequencyCommand
  refine ⟨decode_encode .setFrequency, fun s hl => exec_of_tornDown .setFrequency hl,
    fun s hl => exec_of_uninitialized rfl hl,
    fun s hl hf => exec_setFrequency_of_infeasible hl (factorizeWord_eq_none hf),
    fun s P D l levels divider wrap hl hf hlevels => ?_⟩
  rintro rfl rfl rfl
  obtain ⟨hmin, hmax⟩ := config_maxPeriod s.cfg
  obtain ⟨-, -, hextr, -, hD⟩ := factorize_eq_some hf
  obtain ⟨hP, hP'⟩ : 1 ≤ P ∧ P ≤ s.cfg.maxPwmPeriod := by
    simpa [hextr] using extraction_period_range s.arg.toNat (sampleClock s).toNat hmin
  have hgrows : s.period < BitVec.ofNat 16 P ↔ s.period.toNat < P := by
    rw [BitVec.lt_def, BitVec.toNat_ofNat, Nat.mod_eq_of_lt (by omega)]
  rw [exec_setFrequency_of_feasible hl (factorizeWord_of_factorize hf), frequencyTxns, outputLevels_frequencyState,
    ← hlevels, frequencyState_period, if_congr hgrows rfl rfl]
  simp [finish, frequencyState, levelTxns, dividerTxns, wrapTxns, perSlice, divInt_ofNat hD, divFrac_ofNat,
    wrapOf_ofNat hP (by omega)]

end Sys2Proof.Machine
end

section
/-! The update order of SET_FREQUENCY (R181 to R186): it is glitch-free for a channel pinned before and after it, and
permits a transient of another channel. A successful command emits in two phases, the levels first where the period grows
and last where it does not, and its trace cut anywhere ends in one of them. -/

namespace Sys2Proof.Machine

open Sys2Proof

/-! ### The last level and the last wrap of a trace (R42) -/

theorem lastLevel_append (ch : PinId) (ts us : List Txn) (v : Nat) :
    lastLevel ch (ts ++ us) v = lastLevel ch us (lastLevel ch ts v) := by
  induction ts generalizing v with
  | nil => rfl
  | cons t ts ih => cases t <;> exact ih _

theorem lastWrap_append (ch : PinId) (ts us : List Txn) (v : Nat) :
    lastWrap ch (ts ++ us) v = lastWrap ch us (lastWrap ch ts v) := by
  induction ts generalizing v with
  | nil => rfl
  | cons t ts ih => cases t <;> exact ih _

/-- The last level is no lower than the level before the transactions and every level they emit to the channel. -/
theorem le_lastLevel {ch : PinId} {ts : List Txn} {v bound : Nat} (hv : bound ≤ v)
    (hts : ∀ l, .sinkLevel ch l ∈ ts → bound ≤ l.toNat) : bound ≤ lastLevel ch ts v := by
  induction ts generalizing v with
  | nil => exact hv
  | cons t ts ih =>
    have htail : ∀ l, .sinkLevel ch l ∈ ts → bound ≤ l.toNat := fun l hl => hts l (List.mem_cons_of_mem t hl)
    cases t with
    | sinkLevel c l =>
      refine ih ?_ htail
      split
      next hc => exact hts l (hc ▸ List.mem_cons_self)
      next => exact hv
    | _ => exact ih hv htail

/-- The last wrap is no higher than the wrap before the transactions and every wrap they emit to the slice. -/
theorem lastWrap_le {ch : PinId} {ts : List Txn} {v bound : Nat} (hv : v ≤ bound)
    (hts : ∀ w, .sinkWrap ch w ∈ ts → w.toNat ≤ bound) : lastWrap ch ts v ≤ bound := by
  induction ts generalizing v with
  | nil => exact hv
  | cons t ts ih =>
    have htail : ∀ w, .sinkWrap ch w ∈ ts → w.toNat ≤ bound := fun w hw => hts w (List.mem_cons_of_mem t hw)
    cases t with
    | sinkWrap c w =>
      refine ih ?_ htail
      split
      next hc => exact hts w (hc ▸ List.mem_cons_self)
      next => exact hv
    | _ => exact ih hv htail

/-! ### The two phases of the command (R128, R183) -/

/-- The divider and the wrap of R183, which the command emits after the levels (R181) or before them (R182). -/
def timingTxns (c : Config) (d : Div16) (p : Level) : List Txn := dividerTxns c d ++ wrapTxns c p

theorem frequencyTxns_of_lt {old : Level} {n : State} (h : old < n.period) :
    frequencyTxns old n = levelTxns n.cfg (outputLevels n) ++ timingTxns n.cfg n.div16 n.period := by
  rw [frequencyTxns, if_pos h, List.append_assoc, timingTxns]

theorem frequencyTxns_of_not_lt {old : Level} {n : State} (h : ¬ old < n.period) :
    frequencyTxns old n = timingTxns n.cfg n.div16 n.period ++ levelTxns n.cfg (outputLevels n) := by
  rw [frequencyTxns, if_neg h, timingTxns]

theorem exists_of_mem_perSlice {c : Config} {f : PinId → Txn} {t : Txn} (h : t ∈ perSlice c f) : ∃ ch, t = f ch := by
  unfold perSlice at h
  split at h
  · exact ⟨_, List.mem_singleton.1 h⟩
  · rcases List.mem_pair.1 h with rfl | rfl <;> exact ⟨_, rfl⟩

theorem eq_wrapOf_of_mem_timingTxns {c : Config} {d : Div16} {p : Level} {ch : PinId} {w : Level}
    (h : .sinkWrap ch w ∈ timingTxns c d p) : w = wrapOf p := by
  rcases List.mem_append.1 h with hdiv | hwrap
  · obtain ⟨_, he⟩ := exists_of_mem_perSlice hdiv
    cases he
  · obtain ⟨_, he⟩ := exists_of_mem_perSlice hwrap
    cases he
    rfl

/-- Among the level transactions no wrap changes. -/
theorem lastWrap_le_of_subset_levelTxns {c : Config} {out : Level × Level} {ts : List Txn} (h : ts ⊆ levelTxns c out)
    (ch : PinId) (v : Nat) : lastWrap ch ts v ≤ v := by
  have hno : ∀ w, .sinkWrap ch w ∉ levelTxns c out := by simp [levelTxns]
  exact lastWrap_le le_rfl fun w hw => absurd (h hw) (hno w)

/-- Among the timing transactions no level changes. -/
theorem le_lastLevel_of_subset_timingTxns {c : Config} {d : Div16} {p : Level} {ts : List Txn}
    (h : ts ⊆ timingTxns c d p) (ch : PinId) (v : Nat) : v ≤ lastLevel ch ts v := by
  have hno : ∀ l, .sinkLevel ch l ∉ timingTxns c d p := by
    simp [timingTxns, sinkLevel_not_mem (dividerTxns_no_level c d), sinkLevel_not_mem (wrapTxns_no_level c p)]
  exact le_lastLevel le_rfl fun l hl => absurd (h hl) (hno l)

/-- Among the timing transactions the wrap of a slice is the old one or the new one. -/
theorem lastWrap_le_of_subset_timingTxns {c : Config} {d : Div16} {p : Level} {ts : List Txn}
    (h : ts ⊆ timingTxns c d p) (ch : PinId) (v : Nat) : lastWrap ch ts v ≤ max v (wrapOf p).toNat :=
  lastWrap_le (le_max_left ..) fun _ hw => eq_wrapOf_of_mem_timingTxns (h hw) ▸ le_max_right ..

/-- The timing transactions leave the slice of either channel with the new wrap (R59, R183). -/
theorem lastWrap_timingTxns {c : Config} {ch : PinId} (hch : ch = c.pinPos ∨ ch = c.pinNeg) (d : Div16) (p : Level)
    (v : Nat) : lastWrap (sliceChannel c ch) (timingTxns c d p) v = (wrapOf p).toNat := by
  rcases hch with rfl | rfl <;> cases hshared : c.sharedSlice <;>
    simp [timingTxns, dividerTxns, wrapTxns, perSlice, sliceChannel, lastWrap, hshared]

/-! ### A pinned channel (R185) -/

/-- The levels `out` put the channel `ch` at the level `p`. -/
def Pins (c : Config) (out : Level × Level) (ch : PinId) (p : Level) : Prop :=
  (ch = c.pinPos ∧ out.1 = p) ∨ (ch = c.pinNeg ∧ out.2 = p)

theorem Pins.channel {c : Config} {out : Level × Level} {ch : PinId} {p : Level} (h : Pins c out ch p) :
    ch = c.pinPos ∨ ch = c.pinNeg := h.imp And.left And.left

theorem Pins.eq_of_mem {c : Config} {out : Level × Level} {ch : PinId} {p l : Level} (h : Pins c out ch p)
    (hl : .sinkLevel ch l ∈ levelTxns c out) : l = p := by
  have hne := config_pins_ne c
  rcases h with ⟨rfl, rfl⟩ | ⟨rfl, rfl⟩
  · simpa [levelTxns, hne] using hl
  · simpa [levelTxns, hne.symm] using hl

theorem Pins.lastLevel_eq {c : Config} {out : Level × Level} {ch : PinId} {p : Level} (h : Pins c out ch p) (v : Nat) :
    lastLevel ch (levelTxns c out) v = p.toNat := by
  have hne := config_pins_ne c
  rcases h with ⟨rfl, rfl⟩ | ⟨rfl, rfl⟩ <;> simp [levelTxns, lastLevel, hne.symm]

/-- Among the level transactions the level of a pinned channel is the old one or the new period. -/
theorem Pins.le_lastLevel_of_subset {c : Config} {out : Level × Level} {ch : PinId} {p : Level} (hpin : Pins c out ch p)
    {ts : List Txn} (h : ts ⊆ levelTxns c out) (v : Nat) : min v p.toNat ≤ lastLevel ch ts v :=
  le_lastLevel (min_le_left ..) fun _ hl => hpin.eq_of_mem (h hl) ▸ min_le_right ..

/-- R185's condition on the transactions `ts` emitted so far: the channel's level is above its slice's wrap, from the level
and the wrap of the period `old`. -/
def AtFullScale (c : Config) (ch : PinId) (old : Level) (ts : List Txn) : Prop :=
  lastWrap (sliceChannel c ch) ts (old.toNat - 1) + 1 ≤ lastLevel ch ts old.toNat

/-- Two phases cut anywhere leave a part of the first, or the first and a part of the second. -/
theorem take_append_cases (k : Nat) (ts us : List Txn) :
    (ts ++ us).take k ⊆ ts ∨ ∃ vs, vs ⊆ us ∧ (ts ++ us).take k = ts ++ vs := by
  rcases Nat.le_total k ts.length with h | h
  · rw [List.take_append_of_le_length h]
    exact .inl (List.take_subset k ts)
  · exact .inr ⟨us.take (k - ts.length), List.take_subset .., by rw [List.take_append, List.take_of_length_le h]⟩

/-- R181: where the period grows, the wrap follows a level that is at the new period already. -/
theorem atFullScale_of_levels_first {c : Config} {out : Level × Level} {ch : PinId} {old p : Level}
    (hpin : Pins c out ch p) (hold : 1 ≤ old.toNat) (hgrows : old.toNat < p.toNat) (d : Div16) (k : Nat) :
    AtFullScale c ch old ((levelTxns c out ++ timingTxns c d p).take k) := by
  have hwrap : (wrapOf p).toNat = p.toNat - 1 := toNat_wrapOf (by omega)
  unfold AtFullScale
  rcases take_append_cases k (levelTxns c out) (timingTxns c d p) with hsub | ⟨timing, hsub, htake⟩
  · have hw := lastWrap_le_of_subset_levelTxns hsub (sliceChannel c ch) (old.toNat - 1)
    have hl := hpin.le_lastLevel_of_subset hsub old.toNat
    omega
  · rw [htake, lastWrap_append, lastLevel_append, hpin.lastLevel_eq]
    have hw₁ := lastWrap_le_of_subset_levelTxns (List.Subset.refl (levelTxns c out)) (sliceChannel c ch) (old.toNat - 1)
    have hw₂ := lastWrap_le_of_subset_timingTxns hsub (sliceChannel c ch)
      (lastWrap (sliceChannel c ch) (levelTxns c out) (old.toNat - 1))
    have hl := le_lastLevel_of_subset_timingTxns hsub ch p.toNat
    omega

/-- R182: where the period does not grow, the level follows a wrap that is below the new period already. -/
theorem atFullScale_of_levels_last {c : Config} {out : Level × Level} {ch : PinId} {old p : Level}
    (hpin : Pins c out ch p) (hp : 1 ≤ p.toNat) (hshrinks : p.toNat ≤ old.toNat) (d : Div16) (k : Nat) :
    AtFullScale c ch old ((timingTxns c d p ++ levelTxns c out).take k) := by
  have hwrap : (wrapOf p).toNat = p.toNat - 1 := toNat_wrapOf hp
  unfold AtFullScale
  rcases take_append_cases k (timingTxns c d p) (levelTxns c out) with hsub | ⟨levels, hsub, htake⟩
  · have hw := lastWrap_le_of_subset_timingTxns hsub (sliceChannel c ch) (old.toNat - 1)
    have hl := le_lastLevel_of_subset_timingTxns hsub ch old.toNat
    omega
  · rw [htake, lastWrap_append, lastLevel_append, lastWrap_timingTxns hpin.channel]
    have hw := lastWrap_le_of_subset_levelTxns hsub (sliceChannel c ch) (wrapOf p).toNat
    have hl₁ := le_lastLevel_of_subset_timingTxns (List.Subset.refl (timingTxns c d p)) ch old.toNat
    have hl₂ := hpin.le_lastLevel_of_subset hsub (lastLevel ch (timingTxns c d p) old.toNat)
    omega

/-- The two orders of R180 keep a channel at full scale that the new levels pin to the new period. -/
theorem atFullScale_frequencyTxns {old : Level} {n : State} {ch : PinId} (hpin : Pins n.cfg (outputLevels n) ch n.period)
    (hold : 1 ≤ old.toNat) (hnew : 1 ≤ n.period.toNat) (k : Nat) :
    AtFullScale n.cfg ch old ((frequencyTxns old n).take k) := by
  by_cases hgrows : old < n.period
  · rw [frequencyTxns_of_lt hgrows]
    exact atFullScale_of_levels_first hpin hold hgrows n.div16 k
  · rw [frequencyTxns_of_not_lt hgrows]
    exact atFullScale_of_levels_last hpin hnew (not_lt.1 hgrows) n.div16 k

/-- Settles O41: an infeasible command emits nothing, and a feasible one keeps the channel at full scale in either order. -/
theorem pinnedChannelIsGlitchFree : Obligations.PinnedChannelIsGlitchFree := by
  unfold Obligations.PinnedChannelIsGlitchFree
  intro s t ch k hs hl _ _ h hpinned
  obtain ⟨hold, -⟩ := hs.timingValid hl
  cases hf : factorizeWord s.cfg.maxPwmPeriod s.arg (sampleClock s) with
  | none =>
    rw [exec_setFrequency_of_infeasible hl hf] at h
    cases h
    simp only [newTxns, finish_trace, afterSample_trace, List.drop_length, List.take_nil, lastWrap, lastLevel]
    omega
  | some r =>
    obtain ⟨p, d⟩ := r
    obtain ⟨hmin, hmax⟩ := config_maxPeriod s.cfg
    obtain ⟨hnew, -⟩ := factorizeWord_range hmin hmax hf
    rw [exec_setFrequency_of_feasible hl hf] at h
    cases h
    have hpin : Pins s.cfg (outputLevels (frequencyState p d (afterSample s))) ch p :=
      hpinned.imp (fun ⟨hch, _, hlevel⟩ => ⟨hch, hlevel⟩) fun ⟨hch, _, hlevel⟩ => ⟨hch, hlevel⟩
    have hfull := atFullScale_frequencyTxns (n := frequencyState p d (afterSample s)) (by simpa using hpin) hold hnew k
    simpa [AtFullScale, newTxns] using hfull

/-! ### The transient of another channel (R186) -/

/-- Period 5000 at speed 0.5 in FastDecay, with the operand and the clock of period 62500 pending. -/
def halfSpeedFastDecay : State :=
  { State.reset with
    life := .ready
    speed := 0x00008000#32
    decay := .fast
    period := 5000#16
    div16 := 16#12
    enabled := true
    levelPos := 2500#16
    arg := 16000#32
    clockIn := [125000000#32] }

theorem inv_halfSpeedFastDecay : Inv halfSpeedFastDecay :=
  ⟨⟨by decide, by decide, by decide, by decide⟩, rfl, by decide, by decide⟩

/-- Settles O42: the period grows, so the new level reaches the sink before the new wrap. -/
theorem unpinnedChannelHasATransient : Obligations.UnpinnedChannelHasATransient := by
  unfold Obligations.UnpinnedChannelHasATransient
  have hf : factorizeWord halfSpeedFastDecay.cfg.maxPwmPeriod halfSpeedFastDecay.arg (sampleClock halfSpeedFastDecay) =
      some (62500#16, 32#12) := by decide
  exact ⟨halfSpeedFastDecay, _, inv_halfSpeedFastDecay, rfl, rfl, rfl, rfl, rfl, exec_setFrequency_of_feasible rfl hf,
    by decide, by decide, by decide, by decide⟩

end Sys2Proof.Machine
end

section
/-! The query commands GET_SPEED, GET_FREQUENCY and GET_DECAY_MODE, whole (R200, R202, R204): outside TornDown each
answers its value, in Uninitialized too, and the lifecycle state alone can reject it. -/

namespace Sys2Proof.Machine

open Sys2Proof

/-- A query outside TornDown writes its value to `RESULT` and ends with OK (R34). -/
theorem exec_query_of_not_tornDown {i : Instr} (hi : i = .getSpeed ∨ i = .getFrequency ∨ i = .getDecayMode)
    {s : State} (hl : s.life ≠ .tornDown) :
    exec i s = .next { s with resultReg := queryValue i s, result := .ok, busy := false } := by
  obtain ⟨t, ht⟩ := exec_next i s
  rcases exec_query_cases hi ht with ⟨htorn, -⟩ | ⟨-, rfl⟩
  · exact absurd htorn hl
  · exact ht

/-- Settles O25: one rule for the three queries gives each its value, and the decay mode's is its bit, zero-extended. -/
theorem queryCommands : Obligations.QueryCommands := by
  unfold Obligations.QueryCommands
  refine ⟨decode_encode .getSpeed, decode_encode .getFrequency, decode_encode .getDecayMode,
    fun s i hl _ => exec_of_tornDown i hl,
    fun s hl => exec_query_of_not_tornDown (.inl rfl) hl,
    fun s hl => exec_query_of_not_tornDown (.inr (.inl rfl)) hl,
    fun s hl => ?_⟩
  rw [← decayBit_setWidth]
  exact exec_query_of_not_tornDown (.inr (.inr rfl)) hl

end Sys2Proof.Machine
end

section
/-! How the block answers what goes wrong (60_exceptions.md): the faults of the host program (R226, R262), the frame of a
failing command (R221) and the order of the result codes (R222, R223). -/

namespace Sys2Proof.Machine

open Sys2Proof

/-! ### The faults of the host program (R226, R262) -/

/-- A write between commands never clears the recorded fault. -/
theorem hostWrite_keeps_hostFault {width : AccessWidth} {offset : BitVec 6} {v : Word} {s t : State}
    (h : hostWrite width offset v s = .next t) (hs : s.hostFault = true) : t.hostFault = true := by
  rcases hostWrite_cases h with ⟨-, rfl⟩ | ⟨-, -, -, hc⟩ | ⟨-, -, -, rfl⟩ | ⟨-, -, -, rfl⟩
  · rfl
  · obtain ⟨-, -, -, -, hfault, -⟩ := startCommand_outside hc
    exact hfault.trans hs
  · exact hs
  · exact hs

/-- Settles O12: a bus error sets the record, and neither a command nor a reset writes it. -/
theorem recordedHostFaultIsNeverCleared : Obligations.RecordedHostFaultIsNeverCleared := by
  unfold Obligations.RecordedHostFaultIsNeverCleared
  intro s t h hs
  rcases step_cases h with ⟨-, rfl⟩ | ⟨width, offset, es, -, hr⟩ | ⟨width, offset, v, es, -, hw⟩ | ⟨es, -, rfl⟩ |
    ⟨w, k, es, d, -, -, hd, rfl⟩
  · exact hs
  · rcases hostRead_cases hr with ⟨-, rfl⟩ | ⟨-, rfl⟩
    · exact hs
    · rfl
  · exact hostWrite_keeps_hostFault hw hs
  · exact hs
  · obtain ⟨-, -, -, -, hfault, -⟩ := startCommand_outside hd
    exact hfault.trans hs

/-- An overrun is the fault in every state: its second write finds the block busy, or its first one does already. -/
theorem overrun_eq_fault (w : Word) (toArg : Bool) (v : Word) (s : State) :
    overrun w toArg v s = .fault .writeWhileBusy := by
  cases hb : s.busy with
  | false =>
    obtain ⟨d, hd⟩ := startCommand_next w s
    have hfirst : hostWrite .word 0x00#6 w s = .next d := (handleEvent_cmdWrite_idle w hb).trans hd
    simp only [overrun, hfirst]
    cases toArg with
    | false => exact handleEvent_cmdWrite_busy v (s := { s with busy := true }) rfl
    | true => exact handleEvent_argWrite_busy v (s := { s with busy := true }) rfl
  | true =>
    have hfirst : hostWrite .word 0x00#6 w s = .fault .writeWhileBusy := handleEvent_cmdWrite_busy w hb
    simp only [overrun, hfirst]

/-- Settles O13: the step is the event's, and the event is the fault whatever the state. -/
theorem writeDuringACommandIsAFault : Obligations.WriteDuringACommandIsAFault := by
  unfold Obligations.WriteDuringACommandIsAFault
  intro s w toArg v es hh
  exact (step_of_event hh).trans (overrun_eq_fault w toArg v _)

/-! ### The frame of a failing command (R221) -/

/-- A failing command other than an infeasible one has taken no clock sample. -/
theorem exec_clock_of_failing {i : Instr} {s t : State} (h : exec i s = .next t) (hok : t.result ≠ .ok)
    (hfeasible : t.result ≠ .infeasibleFrequency) : t.clockIn = s.clockIn ∧ t.draws = s.draws := by
  by_cases hinit : i = .init
  · subst hinit
    rcases exec_init_cases h with ⟨-, rfl⟩ | ⟨-, -, rfl⟩ | ⟨p, d, -, -, rfl⟩
    · exact ⟨rfl, rfl⟩
    · exact absurd rfl hfeasible
    · exact absurd rfl hok
  by_cases hfreq : i = .setFrequency
  · subst hfreq
    rcases exec_setFrequency_cases h with ⟨-, rfl⟩ | ⟨-, rfl⟩ | ⟨-, -, rfl⟩ | ⟨p, d, -, -, rfl⟩
    · exact ⟨rfl, rfl⟩
    · exact ⟨rfl, rfl⟩
    · exact absurd rfl hfeasible
    · exact absurd rfl hok
  exact exec_clock_of_other h hinit hfreq

/-- The frame of a failing command: it was rejected, since a command that succeeds ends with OK. -/
theorem exec_frame_of_failing {i : Instr} {s t : State} (h : exec i s = .next t) (hok : t.result ≠ .ok) :
    t = { s with result := t.result, busy := false, clockIn := t.clockIn, draws := t.draws } ∧
    (t.result ≠ .infeasibleFrequency → t.clockIn = s.clockIn ∧ t.draws = s.draws) := by
  refine ⟨?_, exec_clock_of_failing h hok⟩
  rcases exec_outcome h with hr | ⟨n, ts, -, rfl⟩
  · exact hr.frame.2
  · exact absurd rfl hok

/-- The frame of a failing word of `CMD`, a command's or an illegal one. -/
theorem startCommand_frame_of_failing {w : Word} {s t : State} (h : startCommand w s = .next t) (hok : t.result ≠ .ok) :
    t = { s with result := t.result, busy := false, clockIn := t.clockIn, draws := t.draws } ∧
    (t.result ≠ .infeasibleFrequency → t.clockIn = s.clockIn ∧ t.draws = s.draws) := by
  rcases startCommand_cases h with ⟨i, -, hi⟩ | ⟨r, -, rfl⟩
  · exact exec_frame_of_failing (s := { s with busy := true }) hi hok
  · exact ⟨rfl, fun _ => ⟨rfl, rfl⟩⟩

/-- Settles O26: a failing command was rejected, and a step that writes `CMD` of an idle block starts the word. -/
theorem failingCommandIsAllOrNothing : Obligations.FailingCommandIsAllOrNothing := by
  unfold Obligations.FailingCommandIsAllOrNothing
  refine ⟨fun i s t h hok => exec_frame_of_failing h hok, fun s t w es hh hb h hok => ?_⟩
  rw [step_of_event hh, handleEvent_cmdWrite_idle w (s := { s with host := es }) hb] at h
  rw [hb]
  exact startCommand_frame_of_failing h hok

/-! ### The order of the result codes (R222, R223) -/

/-- The result code of a command that has passed the lifecycle checks: BAD_OPERAND, INFEASIBLE_FREQUENCY or OK (R223). -/
def codeAfterLifecycleChecks (i : Instr) (s : State) : ResultCode :=
  if i = .setDecayMode ∧ 2 ≤ s.arg.toNat then .badOperand
  else if i = .init ∧ factorize s.cfg.maxPwmPeriod s.cfg.defaultFreq.toNat (sampleClock s).toNat = none then
    .infeasibleFrequency
  else if i = .setFrequency ∧ factorize s.cfg.maxPwmPeriod s.arg.toNat (sampleClock s).toNat = none then
    .infeasibleFrequency
  else .ok

/-- R76: an operand below 2 encodes a decay mode. -/
theorem exists_decayOperand_of_lt {a : Word} (h : a.toNat < 2) : ∃ m, decayOperand a = some m := by
  obtain h0 | h1 : a.toNat = 0 ∨ a.toNat = 1 := by omega
  · exact ⟨.fast, decayOperand_eq_some_iff.2 h0⟩
  · exact ⟨.slow, decayOperand_eq_some_iff.2 h1⟩

theorem exec_init_code {s : State} (hl : s.life ≠ .tornDown) :
    ∃ t, exec .init s = .next t ∧ t.result = codeAfterLifecycleChecks .init s := by
  cases hf : factorize s.cfg.maxPwmPeriod s.cfg.defaultFreq.toNat (sampleClock s).toNat with
  | none => exact ⟨_, exec_init_of_infeasible hl (factorizeWord_eq_none hf), by simp [codeAfterLifecycleChecks, hf]⟩
  | some r => exact ⟨_, exec_init_of_feasible hl (factorizeWord_of_factorize hf), by simp [codeAfterLifecycleChecks, hf]⟩

theorem exec_setFrequency_code {s : State} (hl : s.life = .ready) :
    ∃ t, exec .setFrequency s = .next t ∧ t.result = codeAfterLifecycleChecks .setFrequency s := by
  cases hf : factorize s.cfg.maxPwmPeriod s.arg.toNat (sampleClock s).toNat with
  | none =>
    exact ⟨_, exec_setFrequency_of_infeasible hl (factorizeWord_eq_none hf), by simp [codeAfterLifecycleChecks, hf]⟩
  | some r =>
    exact ⟨_, exec_setFrequency_of_feasible hl (factorizeWord_of_factorize hf), by simp [codeAfterLifecycleChecks, hf]⟩

theorem exec_setDecayMode_code {s : State} (hl : s.life = .ready) :
    ∃ t, exec .setDecayMode s = .next t ∧ t.result = codeAfterLifecycleChecks .setDecayMode s := by
  by_cases ha : 2 ≤ s.arg.toNat
  · exact ⟨_, exec_setDecayMode_of_badOperand hl (decayOperand_eq_none ha), by simp [codeAfterLifecycleChecks, ha]⟩
  · obtain ⟨m, hm⟩ := exists_decayOperand_of_lt (not_le.1 ha)
    exact ⟨_, exec_setDecayMode_of_ready hl hm, by simp [codeAfterLifecycleChecks, ha, driveLevels]⟩

/-- TEARDOWN outside TornDown ends with OK (R146). -/
theorem exec_teardown_code {s : State} (hl : s.life ≠ .tornDown) :
    ∃ t, exec .teardown s = .next t ∧ t.result = codeAfterLifecycleChecks .teardown s := by
  obtain ⟨t, h⟩ := exec_next .teardown s
  rcases exec_teardown_cases h with ⟨htorn, -⟩ | ⟨-, rfl⟩
  · exact absurd htorn hl
  · exact ⟨_, h, rfl⟩

/-- A command that passes the lifecycle checks completes with the first code of its operand and its frequency (R223). -/
theorem exec_code_after_lifecycle_checks (i : Instr) {s : State} (hl : s.life ≠ .tornDown)
    (hready : isMutator i = true → s.life = .ready) :
    ∃ t, exec i s = .next t ∧ t.result = codeAfterLifecycleChecks i s := by
  cases i with
  | init => exact exec_init_code hl
  | setFrequency => exact exec_setFrequency_code (hready rfl)
  | setDecayMode => exact exec_setDecayMode_code (hready rfl)
  | teardown => exact exec_teardown_code hl
  | setSpeed => exact ⟨_, exec_setSpeed_of_ready (hready rfl), rfl⟩
  | stop => exact ⟨_, exec_stop_of_ready (hready rfl), rfl⟩
  | disable => exact ⟨_, exec_disable_of_ready (hready rfl), rfl⟩
  | getSpeed => exact ⟨_, exec_query_of_not_tornDown (.inl rfl) hl, rfl⟩
  | getFrequency => exact ⟨_, exec_query_of_not_tornDown (.inr (.inl rfl)) hl, rfl⟩
  | getDecayMode => exact ⟨_, exec_query_of_not_tornDown (.inr (.inr rfl)) hl, rfl⟩

/-- Every command completes, with a lifecycle code where a lifecycle check fails and the code of its body else (R223). -/
theorem exec_code (i : Instr) (s : State) :
    ∃ t, exec i s = .next t ∧
      t.result =
        if s.life = .tornDown then .tornDown
        else if isMutator i = true ∧ s.life ≠ .ready then .notInitialized
        else codeAfterLifecycleChecks i s := by
  by_cases htorn : s.life = .tornDown
  · exact ⟨_, exec_of_tornDown i htorn, by rw [if_pos htorn, finish_result]⟩
  by_cases hnotReady : isMutator i = true ∧ s.life ≠ .ready
  · have hl : s.life = .uninitialized := by
      cases hlife : s.life with
      | uninitialized => rfl
      | ready => exact absurd hlife hnotReady.2
      | tornDown => exact absurd hlife htorn
    exact ⟨_, exec_of_uninitialized hnotReady.1 hl, by rw [if_neg htorn, if_pos hnotReady, finish_result]⟩
  · rw [if_neg htorn, if_neg hnotReady]
    exact exec_code_after_lifecycle_checks i htorn fun hm => not_not.1 fun hl => hnotReady ⟨hm, hl⟩

/-- Settles O27, by the code of each command, and by the effect of an illegal word in every lifecycle state. -/
theorem resultCodePriority : Obligations.ResultCodePriority := by
  unfold Obligations.ResultCodePriority
  exact ⟨exec_code, fun i s hl => exec_of_tornDown i hl,
    fun s w r es hh hb hd => ⟨_, step_of_illegal hh hb hd, rfl⟩⟩

end Sys2Proof.Machine
end

section
/-! Reset and hazards (70_reset_and_hazards.md): a reset during a command (R250), and a default frequency that is infeasible
for every clock value sampled (R254). -/

namespace Sys2Proof.Machine

open Sys2Proof

/-! ### A reset during a command (R250, U20) -/

/-- A reset during a command of an idle block abandons that command. -/
theorem resetDuring_of_startCommand {w : Word} (k : Nat) {s d : State} (hb : s.busy = false)
    (h : startCommand w s = .next d) : resetDuring w k s = .next (abandonCommand k s d) := by
  have hwrite : hostWrite .word 0x00#6 w s = .next d := (handleEvent_cmdWrite_idle w hb).trans h
  simp only [resetDuring, hwrite]

/-- Settles O17: the write starts the command that the reset abandons, and a command leaves the configuration, from which
the reset values come. -/
theorem resetDuringACommandAbandonsIt : Obligations.ResetDuringACommandAbandonsIt := by
  unfold Obligations.ResetDuringACommandAbandonsIt
  intro s d w k es hb h
  have hstart : startCommand w { s with host := es } = .next d := by
    rwa [step_of_event rfl, handleEvent_cmdWrite_idle w (s := { s with host := es }) hb] at h
  obtain ⟨hcfg, -⟩ := startCommand_outside hstart
  rw [step_of_event rfl]
  refine (resetDuring_of_startCommand k (s := { s with host := es }) hb hstart).trans ?_
  rw [show s.cfg = d.cfg from hcfg.symm]
  rfl

/-! ### The clock values a run samples (R56) -/

/-- The clock values sampled between two states of a run: those used up of `clockIn`, and the free draws (log entry 3). -/
def Sampled (s t : State) (c : Word) : Prop :=
  (∃ used, s.clockIn = used ++ t.clockIn ∧ c ∈ used) ∨ (∃ k, s.draws ≤ k ∧ k < t.draws ∧ c = Config.clockDraw k)

/-- The clock of `t` is that of `s` after some samples. -/
def ClockAdvances (s t : State) : Prop := t.clockIn <:+ s.clockIn ∧ s.draws ≤ t.draws

theorem ClockAdvances.refl (s : State) : ClockAdvances s s := ⟨List.suffix_rfl, le_rfl⟩

theorem ClockAdvances.trans {s u t : State} (hsu : ClockAdvances s u) (hut : ClockAdvances u t) : ClockAdvances s t :=
  ⟨hut.1.trans hsu.1, hsu.2.trans hut.2⟩

theorem ClockAdvances.of_eq {s t : State} (h : t.clockIn = s.clockIn ∧ t.draws = s.draws) : ClockAdvances s t :=
  ⟨h.1 ▸ List.suffix_rfl, h.2.ge⟩

theorem clockAdvances_afterSample (s : State) : ClockAdvances s (afterSample s) := by
  rcases afterSample_cases s with ⟨c, cs, hin, -, hafter⟩ | ⟨-, -, hafter⟩
  · rw [hafter]
    exact ⟨hin ▸ List.suffix_cons c cs, le_rfl⟩
  · rw [hafter]
    exact ⟨List.suffix_rfl, Nat.le_succ _⟩

theorem sampled_afterSample (s : State) : Sampled s (afterSample s) (sampleClock s) := by
  rcases afterSample_cases s with ⟨c, cs, hin, hc, hafter⟩ | ⟨-, hc, hafter⟩
  · rw [hafter, hc]
    exact .inl ⟨[c], hin, List.mem_singleton_self c⟩
  · rw [hafter, hc]
    exact .inr ⟨s.draws, le_rfl, Nat.lt_succ_self _, rfl⟩

/-- What is sampled up to a state is sampled up to every later one. -/
theorem Sampled.up_to_later {s u t : State} {c : Word} (h : Sampled s u c) (hut : ClockAdvances u t) : Sampled s t c := by
  obtain ⟨⟨rest, hrest⟩, hdraws⟩ := hut
  rcases h with ⟨used, hused, hc⟩ | ⟨k, hk, hku, hc⟩
  · exact .inl ⟨used ++ rest, by rw [List.append_assoc, hrest, hused], List.mem_append_left _ hc⟩
  · exact .inr ⟨k, hk, hku.trans_le hdraws, hc⟩

/-- What is sampled from a state on is sampled from every earlier one on. -/
theorem Sampled.from_earlier {s u t : State} {c : Word} (h : Sampled u t c) (hsu : ClockAdvances s u) : Sampled s t c := by
  obtain ⟨⟨front, hfront⟩, hdraws⟩ := hsu
  rcases h with ⟨used, hused, hc⟩ | ⟨k, hk, hkt, hc⟩
  · exact .inl ⟨front ++ used, by rw [List.append_assoc, ← hused, hfront], List.mem_append_right _ hc⟩
  · exact .inr ⟨k, hdraws.trans hk, hkt, hc⟩

theorem exec_clockAdvances {i : Instr} {s t : State} (h : exec i s = .next t) : ClockAdvances s t := by
  have hclock := exec_clock h
  split at hclock
  · exact (clockAdvances_afterSample s).trans (.of_eq hclock)
  · exact .of_eq hclock

theorem startCommand_clockAdvances {w : Word} {s t : State} (h : startCommand w s = .next t) : ClockAdvances s t := by
  rcases startCommand_cases h with ⟨i, -, hi⟩ | ⟨r, -, rfl⟩
  · exact exec_clockAdvances (s := { s with busy := true }) hi
  · exact .refl s

theorem hostWrite_clockAdvances {width : AccessWidth} {offset : BitVec 6} {v : Word} {s t : State}
    (h : hostWrite width offset v s = .next t) : ClockAdvances s t := by
  rcases hostWrite_kinds h with ht | ⟨-, -, -, hs⟩
  · rw [ht]
    exact .refl s
  · exact startCommand_clockAdvances hs

/-- No step gives a sample back, and neither does a reset (R56, R250). -/
theorem step_clockAdvances {s t : State} (h : step s = .next t) : ClockAdvances s t := by
  rcases step_cases h with ⟨-, rfl⟩ | ⟨width, offset, es, -, hr⟩ | ⟨width, offset, v, es, -, hw⟩ | ⟨es, -, rfl⟩ |
    ⟨w, k, es, d, -, -, hd, rfl⟩
  · exact .refl _
  · rcases hostRead_cases hr with ⟨-, rfl⟩ | ⟨-, rfl⟩ <;> exact .refl s
  · exact hostWrite_clockAdvances (s := { s with host := es }) hw
  · exact .refl s
  · have hcommand : ClockAdvances { s with host := es } d := startCommand_clockAdvances hd
    exact hcommand

theorem run_clockAdvances {n : Nat} {s t : State} (h : Sys2Proof.core.run n s = .next t) : ClockAdvances s t :=
  run_keeps (P := ClockAdvances s) (fun _ _ hu huv => hu.trans (step_clockAdvances huv)) (.refl s) h

/-! ### A default frequency that is infeasible (R254) -/

/-- The factorizer succeeds on the default frequency for a clock value sampled between the two states. -/
def DefaultFeasible (s t : State) : Prop :=
  ∃ c, Sampled s t c ∧ factorize s.cfg.maxPwmPeriod s.cfg.defaultFreq.toNat c.toNat ≠ none

/-- Only INIT makes a block ready, and it has found the default frequency feasible for the value it sampled (R140). -/
theorem exec_becomes_ready {i : Instr} {s t : State} (h : exec i s = .next t) (hs : s.life ≠ .ready)
    (ht : t.life = .ready) : DefaultFeasible s t := by
  rcases exec_outcome h with hr | ⟨n, ts, hp, rfl⟩
  · rw [hr.frame.2] at ht
    exact absurd ht hs
  · cases hp with
    | init p d hl hf =>
      obtain ⟨P, D, hPD, -, -⟩ := factorizeWord_eq_some hf
      exact ⟨sampleClock s, (sampled_afterSample s).up_to_later (.of_eq (by simp)), by simp [hPD]⟩
    | teardown => simp at ht
    | query => exact absurd (by simpa using ht) hs
    | _ => exact absurd ‹s.life = .ready› hs

theorem step_becomes_ready {s t : State} (h : step s = .next t) (hs : s.life ≠ .ready) (ht : t.life = .ready) :
    DefaultFeasible s t := by
  rcases step_kinds h with hsame | ⟨w, es, -, -, hw⟩ | ⟨e, es, u, -, -, -, hreset⟩
  · rw [hsame] at ht
    exact absurd ht hs
  · rcases startCommand_cases hw with ⟨i, -, hi⟩ | ⟨r, -, rfl⟩
    · exact exec_becomes_ready (s := { s with host := es, busy := true }) hi hs ht
    · exact absurd ht hs
  · rw [hreset] at ht
    cases ht

/-- A run that makes the block ready has a step that does, and what this step samples the run samples. -/
theorem run_becomes_ready {n : Nat} {s t : State} (h : Sys2Proof.core.run n s = .next t) (hs : s.life ≠ .ready)
    (ht : t.life = .ready) : DefaultFeasible s t := by
  induction n generalizing s with
  | zero => exact absurd (run_zero h ▸ ht) hs
  | succ n ih =>
    obtain ⟨u, hu, hrun⟩ := run_succ h
    by_cases hready : u.life = .ready
    · obtain ⟨c, hc, hf⟩ := step_becomes_ready hu hs hready
      exact ⟨c, hc.up_to_later (run_clockAdvances hrun), hf⟩
    · obtain ⟨c, hc, hf⟩ := ih hrun hready
      rw [step_cfg hu] at hf
      exact ⟨c, hc.from_earlier (step_clockAdvances hu), hf⟩

/-- Settles O40: a run that made the block ready would have sampled a clock value for which the default frequency is
feasible. -/
theorem infeasibleDefaultNeverBecomesReady : Obligations.InfeasibleDefaultNeverBecomesReady := by
  unfold Obligations.InfeasibleDefaultNeverBecomesReady
  intro n s t hs h hused hdraws ht
  obtain ⟨c, ⟨used, hclock, hc⟩ | ⟨k, hk, hkt, rfl⟩, hf⟩ := run_becomes_ready h hs ht
  · exact hf (hused used hclock c hc)
  · exact hf (hdraws k hk hkt)

end Sys2Proof.Machine
end
